-- ==== Sys2Proof/Word.lean ====
section
/-!
DEFINITION. The words, identities and names of the ZD210: what the commands, the frames and the state are made of.
The names are the manual's. Numbers that the manual compares and counts are `Fin`; what it shows as bits is a `BitVec`.
-/

namespace Sys2Proof

/-- One character of a frame, or one byte of the local port. -/
abbrev Byte := BitVec 8

/-- 00 4.1: a station ID, 0 to 31. -/
abbrev StationId := Fin 32

/-- 00 4.1: a rank, 0 to 7. -/
abbrev Rank := Fin 8

/-- 00 4.2: an epoch, 0 to 255; it wraps and is compared by distance (R3, R4). -/
abbrev Epoch := BitVec 8

/-- R88: the fault budget count, 0 to 3. -/
abbrev Budget := Fin 4

/-- R168: the index of a query slot. -/
abbrev SlotIx := Fin 4

/-- 00 4.3: the release front, NONE, a rank or ALL. -/
inductive Front
  | none
  | rank (r : Rank)
  | all
deriving DecidableEq, Repr

/-- R69: the five board states. -/
inductive BoardState
  | held | runup | ready | recover | excluded
deriving DecidableEq, Repr

/-- R112: the five station states. -/
inductive StationState
  | start | listen | member | isolated | blocked
deriving DecidableEq, Repr

/-- R48: the scope of a fault. The scope NONE of a cause record is the absence of one. -/
inductive Scope
  | local | rank | domain
deriving DecidableEq, Repr

/-- R47: the fourteen causes. -/
inductive Cause
  | start | wdog | boardFlt | supply | soft | emrg | view | late
  | powerOn | stnReset | dupId | isolated | excluded | catchUp
deriving DecidableEq, Repr

/-- R96: the action of a hold entry. -/
inductive HoldAction
  | hold | resume
deriving DecidableEq, Repr

/-- R169: what a query asks for. -/
inductive Item
  | status | logSummary | lastFault
deriving DecidableEq, Repr

/-- R129, R172: the status of a REPLY. -/
inductive ReplyStatus
  | ok | noData
deriving DecidableEq, Repr

/-- R168: the tag of a query, formed from the slot's index and its generation. -/
structure Tag where
  slot : SlotIx
  gen  : Fin 4
deriving DecidableEq, Repr

/-- R49, R129: the content of a FAULT. -/
structure FaultFields where
  cause      : Cause
  scope      : Scope
  senderRank : Rank
  rewindRank : Rank
deriving DecidableEq, Repr

/-- R129, R172: the content of a REPLY. -/
structure ReplyFields where
  requester : StationId
  item      : Item
  tag       : Tag
  status    : ReplyStatus
  data1     : Byte
  data2     : Byte
deriving DecidableEq, Repr

/-- R129, R131: the content of an ANNOUNCE. -/
structure AnnounceFields where
  senderRank : Rank
  board      : BoardState
  budget     : Budget
  front      : Front
  base       : Rank
  gather     : Bool
  holding    : Bool
  logPending : Bool
deriving DecidableEq, Repr

/-- R129: the content of a frame, by class. LAPSE is shown as its two kinds. -/
inductive Body
  | fault (f : FaultFields)
  | rankTimeout (k : Rank)
  | memberSilent (subject : StationId)
  | advance (old new : Front)
  | hold (a : HoldAction)
  | ready (senderRank : Rank)
  | query (target : StationId) (item : Item) (tag : Tag)
  | reply (r : ReplyFields)
  | announce (a : AnnounceFields)
deriving DecidableEq, Repr

/-- R128, R129: a frame: who sends it, in which epoch, and its content. -/
structure Frame where
  sender : StationId
  epoch  : Epoch
  body   : Body
deriving DecidableEq, Repr

/-- R109: the timing profile chosen by the PROF straps. -/
inductive Profile
  | p0 | p1 | p2 | p3
deriving DecidableEq, Repr

/-- R109: the line bit rate chosen by the LRATE straps, in kbit/s. -/
inductive LineRate
  | k50 | k100 | k200 | k400
deriving DecidableEq, Repr

/-- R109: the level of a pin or a strap. -/
inductive Level
  | low | high
deriving DecidableEq, Repr

/-- R108, R109: the seventeen straps, as the values of their eight fields. -/
structure Straps where
  id      : StationId
  rank    : Rank
  prof    : Profile
  lrate   : LineRate
  cont    : Fin 4
  lateAct : Level
  fltMode : Level
  isoPol  : Level
deriving DecidableEq, Repr

/-- R109: the levels of the seventeen strap pins, each strap's lowest-numbered pin first. -/
structure StrapPins where
  id      : Vector Level 5
  rank    : Vector Level 3
  prof    : Vector Level 2
  lrate   : Vector Level 2
  cont    : Vector Level 2
  lateAct : Level
  fltMode : Level
  isoPol  : Level
deriving DecidableEq, Repr

/-- R114: what the station reads at the end of the start-up delay: the strap pins, the level of FLT_N, SENSE in
millivolts (R82) and whether the coordination line is dominant. -/
structure SampledPins where
  straps       : StrapPins
  fltN         : Level
  senseMv      : Nat
  lineDominant : Bool
deriving DecidableEq, Repr

/-- R113: the two things whose release ends a reset. -/
inductive ResetSource
  | supply | srstN
deriving DecidableEq, Repr

/-- R150: the faults found at the completion of a character or a frame. Truncations and dominant-run violations are
commands of their own. -/
inductive RxError
  | framing | badCrc | invalidField
deriving DecidableEq, Repr

end Sys2Proof
end

