-- ==== Sys2Proof/Machine/Wire.lean ====
section
/-!
DEFINITION. Chapter 7: codes, layouts, the check character and the validity of frames. The codes are used by the
local-port responses as well (R132).
-/

namespace Sys2Proof.Machine

/-! ### Codes (R128, R132, 7.9) -/

/-- 00 4.3: a front as a number, NONE counting as −1 and ALL as 8. -/
def frontValue : Front → Int
  | .none => -1
  | .rank r => r.val
  | .all => 8

/-- R128: the class codes; a lower code is more urgent. -/
def classCode : Body → Fin 8
  | .fault _ => 0
  | .rankTimeout _ => 1
  | .memberSilent _ => 1
  | .advance _ _ => 2
  | .hold _ => 3
  | .ready _ => 4
  | .query _ _ _ => 5
  | .reply _ => 6
  | .announce _ => 7

/-- R129: the length of a frame in characters, by its class code. -/
def frameLength (code : Nat) : Nat :=
  match code with
  | 0 => 5
  | 5 => 5
  | 6 => 8
  | 7 => 6
  | _ => 4

/-- R132: the code of a front. -/
def frontCode : Front → BitVec 4
  | .rank r => BitVec.ofNat 4 r.val
  | .all => 8#4
  | .none => 15#4

/-- R132: the front of a code; 9 to 14 are invalid. -/
def frontOfCode (c : BitVec 4) : Option Front :=
  if h : c.toNat < 8 then some (.rank ⟨c.toNat, h⟩)
  else if c = 8#4 then some .all
  else if c = 15#4 then some .none
  else none

/-- R132: the code of a board state. -/
def boardCode : BoardState → BitVec 3
  | .held => 0#3
  | .runup => 1#3
  | .ready => 2#3
  | .recover => 3#3
  | .excluded => 4#3

/-- R132: the board state of a code; 5 to 7 are invalid. -/
def boardOfCode (c : BitVec 3) : Option BoardState :=
  if c = 0#3 then some .held
  else if c = 1#3 then some .runup
  else if c = 2#3 then some .ready
  else if c = 3#3 then some .recover
  else if c = 4#3 then some .excluded
  else none

/-- R132: the code of a scope; 0 is NONE, in cause records only. -/
def scopeCode : Scope → BitVec 2
  | .local => 1#2
  | .rank => 2#2
  | .domain => 3#2

/-- R132: the scope of a code in a frame; 0 is invalid. -/
def scopeOfCode (c : BitVec 2) : Option Scope :=
  if c = 1#2 then some .local
  else if c = 2#2 then some .rank
  else if c = 3#2 then some .domain
  else none

/-- R47: the code of a cause. -/
def causeCode : Cause → BitVec 4
  | .start => 1#4
  | .wdog => 2#4
  | .boardFlt => 3#4
  | .supply => 4#4
  | .soft => 5#4
  | .emrg => 6#4
  | .view => 7#4
  | .late => 8#4
  | .powerOn => 9#4
  | .stnReset => 10#4
  | .dupId => 11#4
  | .isolated => 12#4
  | .excluded => 13#4
  | .catchUp => 14#4

/-- R47, R132: the causes a FAULT frame may carry. -/
def causeTravels : Cause → Bool
  | .start | .wdog | .boardFlt | .supply | .soft | .view | .late => true
  | .emrg | .powerOn | .stnReset | .dupId | .isolated | .excluded | .catchUp => false

/-- R132: the cause of a code in a frame; 0, 6 and 9 to 15 are invalid. -/
def causeOfCode (c : BitVec 4) : Option Cause :=
  if c = 1#4 then some .start
  else if c = 2#4 then some .wdog
  else if c = 3#4 then some .boardFlt
  else if c = 4#4 then some .supply
  else if c = 5#4 then some .soft
  else if c = 7#4 then some .view
  else if c = 8#4 then some .late
  else none

/-- R132: the code of a query item. -/
def itemCode : Item → BitVec 4
  | .status => 1#4
  | .logSummary => 2#4
  | .lastFault => 3#4

/-- R132: the item of a code; 0 and 4 to 15 are invalid. -/
def itemOfCode (c : BitVec 4) : Option Item :=
  if c = 1#4 then some .status
  else if c = 2#4 then some .logSummary
  else if c = 3#4 then some .lastFault
  else none

/-- R132: a tag is the slot index in the upper two bits and the generation in the lower two. -/
def tagCode (t : Tag) : BitVec 4 := BitVec.ofNat 2 t.slot.val ++ BitVec.ofNat 2 t.gen.val

/-- R132: every tag value is valid. -/
def tagOfCode (c : BitVec 4) : Tag :=
  ⟨⟨(c.extractLsb' 2 2).toNat, (c.extractLsb' 2 2).isLt⟩, ⟨(c.extractLsb' 0 2).toNat, (c.extractLsb' 0 2).isLt⟩⟩

/-- 7.9: the code of a station state. -/
def stationCode : StationState → BitVec 3
  | .start => 0#3
  | .listen => 1#3
  | .member => 2#3
  | .isolated => 3#3
  | .blocked => 4#3

/-- R132: a flag is 1 set, 0 clear. -/
def flagCode (b : Bool) : BitVec 1 := if b then 1#1 else 0#1

def flagOfCode (c : BitVec 1) : Bool := c == 1#1

def rankCode (r : Rank) : BitVec 3 := BitVec.ofNat 3 r.val

def rankOfCode (c : BitVec 3) : Rank := ⟨c.toNat, c.isLt⟩

def idCode (i : StationId) : BitVec 5 := BitVec.ofNat 5 i.val

def idOfCode (c : BitVec 5) : StationId := ⟨c.toNat, c.isLt⟩

def budgetCode (n : Budget) : BitVec 2 := BitVec.ofNat 2 n.val

def budgetOfCode (c : BitVec 2) : Budget := ⟨c.toNat, c.isLt⟩

def actionCode : HoldAction → Byte
  | .hold => 0#8
  | .resume => 1#8

def actionOfCode (c : Byte) : Option HoldAction :=
  if c = 0#8 then some .hold else if c = 1#8 then some .resume else none

def replyStatusCode : ReplyStatus → Byte
  | .ok => 0#8
  | .noData => 1#8

def replyStatusOfCode (c : Byte) : Option ReplyStatus :=
  if c = 0#8 then some .ok else if c = 1#8 then some .noData else none

/-! ### The check character (R133) -/

/-- One bit of the CRC-8 with generator x⁸ + x² + x + 1, most significant bit first. -/
def crcShift (r : Byte) : Byte := if r.msb then (r <<< 1) ^^^ 0x07#8 else r <<< 1

/-- One character into the CRC register. -/
def crcChar (r c : Byte) : Byte :=
  crcShift (crcShift (crcShift (crcShift (crcShift (crcShift (crcShift (crcShift (r ^^^ c))))))))

/-- R133: the check character of a run of characters: the register starts at all ones, no inversion, no reflection. -/
def crc8 (chars : List Byte) : Byte := chars.foldl crcChar 0xFF#8

/-! ### Layouts (7.9) -/

/-- Character 1 (R128): class in the upper three bits, sender ID in the lower five. -/
def char1 (f : Frame) : Byte := BitVec.ofNat 3 (classCode f.body).val ++ idCode f.sender

/-- The characters after the epoch and before the CRC. Bits shown as 0 in the layouts are sent as zero. -/
def bodyChars : Body → List Byte
  | .fault f => [causeCode f.cause ++ scopeCode f.scope ++ 0#2, rankCode f.senderRank ++ 0#2 ++ rankCode f.rewindRank]
  | .rankTimeout k => [0#1 ++ 0#2 ++ 0#2 ++ rankCode k]
  | .memberSilent s => [1#1 ++ 0#2 ++ idCode s]
  | .advance old new => [frontCode old ++ frontCode new]
  | .hold a => [actionCode a]
  | .ready r => [0#5 ++ rankCode r]
  | .query target item tag => [0#3 ++ idCode target, itemCode item ++ tagCode tag]
  | .reply r => [0#3 ++ idCode r.requester, itemCode r.item ++ tagCode r.tag, replyStatusCode r.status, r.data1, r.data2]
  | .announce a =>
    [rankCode a.senderRank ++ boardCode a.board ++ budgetCode a.budget,
     frontCode a.front ++ 0#1 ++ rankCode a.base,
     flagCode a.gather ++ flagCode a.holding ++ flagCode a.logPending ++ 0#5]

/-- The characters of a frame before its CRC. -/
def frameChars (f : Frame) : List Byte := char1 f :: f.epoch :: bodyChars f.body

/-- R129, R133: the whole frame as it is sent, CRC last. -/
def encodeFrame (f : Frame) : List Byte := frameChars f ++ [crc8 (frameChars f)]

/-! ### Validity (R134) -/

/-- R134: the three consistency tests of an ANNOUNCE. -/
def announceConsistent (a : AnnounceFields) : Bool :=
  (!a.gather || a.front == .none)
    && decide ((a.base.val : Int) - 1 ≤ frontValue a.front)
    && ((a.budget == 3) == (a.board == .excluded))

/-- R134: whether a frame is valid. Invalid codes have no place in `Frame`, but for the causes that do not travel. -/
def frameValid (f : Frame) : Bool :=
  match f.body with
  | .fault c => causeTravels c.cause
  | .announce a => announceConsistent a
  | _ => true

/-! ### Reading a frame back (R129, R132, R134) -/

/-- The content of a FAULT, or none where a code is invalid or a zero bit is set. -/
def faultOfChars (c3 c4 : Byte) : Option Body :=
  match causeOfCode (c3.extractLsb' 4 4), scopeOfCode (c3.extractLsb' 2 2) with
  | some cause, some scope =>
    if c3.extractLsb' 0 2 = 0#2 ∧ c4.extractLsb' 3 2 = 0#2 then
      some (.fault ⟨cause, scope, rankOfCode (c4.extractLsb' 5 3), rankOfCode (c4.extractLsb' 0 3)⟩)
    else none
  | _, _ => none

/-- The content of a LAPSE. A subject above 7 with kind RANK-TIMEOUT is invalid. -/
def lapseOfChars (c3 : Byte) : Option Body :=
  if c3.extractLsb' 5 2 ≠ 0#2 then none
  else if c3.extractLsb' 7 1 = 1#1 then some (.memberSilent (idOfCode (c3.extractLsb' 0 5)))
  else if c3.extractLsb' 3 2 = 0#2 then some (.rankTimeout (rankOfCode (c3.extractLsb' 0 3)))
  else none

def advanceOfChars (c3 : Byte) : Option Body :=
  match frontOfCode (c3.extractLsb' 4 4), frontOfCode (c3.extractLsb' 0 4) with
  | some old, some new => some (.advance old new)
  | _, _ => none

def holdOfChars (c3 : Byte) : Option Body := (actionOfCode c3).map .hold

def readyOfChars (c3 : Byte) : Option Body :=
  if c3.extractLsb' 3 5 = 0#5 then some (.ready (rankOfCode (c3.extractLsb' 0 3))) else none

def queryOfChars (c3 c4 : Byte) : Option Body :=
  match itemOfCode (c4.extractLsb' 4 4) with
  | some item =>
    if c3.extractLsb' 5 3 = 0#3 then
      some (.query (idOfCode (c3.extractLsb' 0 5)) item (tagOfCode (c4.extractLsb' 0 4)))
    else none
  | none => none

def replyOfChars (c3 c4 c5 c6 c7 : Byte) : Option Body :=
  match itemOfCode (c4.extractLsb' 4 4), replyStatusOfCode c5 with
  | some item, some status =>
    if c3.extractLsb' 5 3 = 0#3 then
      some (.reply ⟨idOfCode (c3.extractLsb' 0 5), item, tagOfCode (c4.extractLsb' 0 4), status, c6, c7⟩)
    else none
  | _, _ => none

def announceOfChars (c3 c4 c5 : Byte) : Option Body :=
  match boardOfCode (c3.extractLsb' 2 3), frontOfCode (c4.extractLsb' 4 4) with
  | some board, some front =>
    if c4.extractLsb' 3 1 = 0#1 ∧ c5.extractLsb' 0 5 = 0#5 then
      some (.announce ⟨rankOfCode (c3.extractLsb' 5 3), board, budgetOfCode (c3.extractLsb' 0 2), front,
        rankOfCode (c4.extractLsb' 0 3), flagOfCode (c5.extractLsb' 7 1), flagOfCode (c5.extractLsb' 6 1),
        flagOfCode (c5.extractLsb' 5 1)⟩)
    else none
  | _, _ => none

/-- The content after the epoch, by class code. -/
def bodyOfChars (code : Nat) (chars : List Byte) : Option Body :=
  match code, chars with
  | 0, [c3, c4] => faultOfChars c3 c4
  | 1, [c3] => lapseOfChars c3
  | 2, [c3] => advanceOfChars c3
  | 3, [c3] => holdOfChars c3
  | 4, [c3] => readyOfChars c3
  | 5, [c3, c4] => queryOfChars c3 c4
  | 6, [c3, c4, c5, c6, c7] => replyOfChars c3 c4 c5 c6 c7
  | 7, [c3, c4, c5] => announceOfChars c3 c4 c5
  | _, _ => none

/-- R134: the frame that the characters before the CRC spell, none where they are invalid. -/
def frameOfChars : List Byte → Option Frame
  | c1 :: c2 :: rest =>
    match bodyOfChars (c1.extractLsb' 5 3).toNat rest with
    | some body =>
      let f : Frame := ⟨idOfCode (c1.extractLsb' 0 5), c2, body⟩
      if frameValid f then some f else none
    | none => none
  | _ => none

/-- R133 to R135: what a completed frame is: the CRC is tested before any field. -/
def receiveFrame (chars : List Byte) : Except RxError Frame :=
  if chars.getLast? = some (crc8 chars.dropLast) then
    match frameOfChars chars.dropLast with
    | some f => .ok f
    | none => .error .invalidField
  else .error .badCrc

/-- 7.9: the command codes of the local port. -/
def commandCodes : List Byte := [0x10#8, 0x11#8, 0x20#8, 0x21#8, 0x30#8, 0x31#8, 0x40#8, 0x50#8, 0x51#8, 0x60#8]

end Sys2Proof.Machine
end

