-- ==== Sys2Proof/Syntax.lean ====
section
/-!
DEFINITION. The commands: one constructor for each row of spec/opcode_table.json. The table gives a row no operands;
those below are what the rule the row names needs from outside the station (log entry 1).
-/

namespace Sys2Proof

/-- The commands of the station, each one whole event (00 4.5, 95). An arrival carries the arriving frame: the sender's
ID, the epoch and the fields of its class (R129). A local-port command carries its argument bytes (R138). -/
inductive Instr
  | powerOnReset
  | stationReset
  | resetRelease (source : ResetSource)
  | startUpDelayExpiry (pins : SampledPins)
  | listenInExpiry
  | quietTimerExpiry
  | announceTimerExpiry
  | gatherTimerExpiry
  | rankSettleExpiry
  | holdLimitExpiry
  | holdDownExpiry
  | recoveryExpiry
  | watchdogExpiry
  | stableIntervalExpiry
  | queryTimerExpiry (slot : SlotIx)
  | brdyRise
  | brdyFall
  | kick
  | fltNFall
  | fltNRise
  | supplyBandLow
  | supplyBandNormal
  | emrgNFall
  | breakDriveEnd
  | attemptStart
  | lostArbitration
  | collisionAfterArbitration
  | driveFault
  | longRunStart
  | dominantRunEnd
  | stuckLine
  | truncation
  | receptionError (kind : RxError)
  | announceArrival (sender : StationId) (epoch : Epoch) (fields : AnnounceFields)
  | advanceArrival (sender : StationId) (epoch : Epoch) (old new : Front)
  | rankTimeoutArrival (sender : StationId) (epoch : Epoch) (subject : Rank)
  | memberSilentArrival (sender : StationId) (epoch : Epoch) (subject : StationId)
  | faultArrival (sender : StationId) (epoch : Epoch) (fields : FaultFields)
  | holdArrival (sender : StationId) (epoch : Epoch)
  | resumeArrival (sender : StationId) (epoch : Epoch)
  | readyArrival (sender : StationId) (epoch : Epoch) (senderRank : Rank)
  | queryArrival (sender : StationId) (epoch : Epoch) (target : StationId) (item : Item) (tag : Tag)
  | replyArrival (sender : StationId) (epoch : Epoch) (fields : ReplyFields)
  | transactionEnd (more : Nat)
  | getStatus
  | getMember (id : Byte)
  | logTake
  | logPeek
  | holdReq
  | resumeReq
  | resetReq (scope : Byte)
  | queryReq (target item : Byte)
  | queryTake (tag : Byte)
  | clearExcl
  | unknownCommand (code : Byte)
  | dominantRunStart
  | transactionStart
deriving DecidableEq, Repr

end Sys2Proof
end

