-- ==== Sys2Proof/Decode.lean ====
section
/-!
DEFINITION. The words of the commands. The rows of spec/opcode_table.json give no bits. The commands of the local port are
spelt by bytes, which 7.9 gives; the other rows are events, and no word spells them (log entry 18).
-/

namespace Sys2Proof

/-! ### The bytes of the port commands (R138, R139, 7.9) -/

/-- 7.9: the bytes of a port command, the command byte and its arguments. -/
def Machine.portBytes : Instr → List Byte
  | .getStatus => [0x10#8]
  | .getMember id => [0x11#8, id]
  | .logTake => [0x20#8]
  | .logPeek => [0x21#8]
  | .holdReq => [0x30#8]
  | .resumeReq => [0x31#8]
  | .resetReq scope => [0x40#8, scope]
  | .queryReq target item => [0x50#8, target, item]
  | .queryTake tag => [0x51#8, tag]
  | .clearExcl => [0x60#8]
  | .unknownCommand code => [code]
  | _ => []

/-- R138, R139: a command byte alone: a command without arguments, or one that names no command; a command with
arguments is not taken yet. -/
def Machine.commandOfByte (code : Byte) : Option Instr :=
  if code = 0x10#8 then some .getStatus
  else if code = 0x20#8 then some .logTake
  else if code = 0x21#8 then some .logPeek
  else if code = 0x30#8 then some .holdReq
  else if code = 0x31#8 then some .resumeReq
  else if code = 0x60#8 then some .clearExcl
  else if Machine.commandCodes.contains code then none
  else some (.unknownCommand code)

/-- R138: a command byte with one argument. -/
def Machine.commandOfTwo (code arg : Byte) : Option Instr :=
  if code = 0x11#8 then some (.getMember arg)
  else if code = 0x40#8 then some (.resetReq arg)
  else if code = 0x51#8 then some (.queryTake arg)
  else none

/-- R138: the command that the bytes received so far make the port take, none while the command byte or an argument is
outstanding. -/
def Machine.takenCommand : List Byte → Option Instr
  | [code] => Machine.commandOfByte code
  | [code, arg] => Machine.commandOfTwo code arg
  | [code, arg, arg2] => if code = 0x50#8 then some (.queryReq arg arg2) else none
  | _ => none

/-! ### Words -/

/-- The bytes of a word of `nbits` bits, the first byte in its lowest eight. -/
def wordBytes (nbits w : Nat) : List Byte := (List.range (nbits / 8)).map fun k => BitVec.ofNat 8 (w >>> (8 * k))

/-- R138, 7.9: the port command that a word of `nbits` bits spells, byte 1 picking it; none where its bytes spell none. -/
def decodeTableWord (nbits w : Nat) : Option Instr := Machine.takenCommand (wordBytes nbits w)

end Sys2Proof
end

