-- ==== Sys2Proof/Config.lean ====
section
/-!
DEFINITION. What the device fixes: capacities and thresholds. No free value stands here: the manual leaves no result of
any event open (log entry 21).
-/

namespace Sys2Proof.Config

/-- R157: the Transmit Queue holds at most 12 entries. -/
def queueCapacity : Nat := 12

/-- R179: the Cause Log holds at most 16 records. -/
def logCapacity : Nat := 16

/-- R19: the silence limit, in announce periods. -/
def silenceLimit : Nat := 4

/-- R113: the start-up delay, in milliseconds, in every profile (R110). -/
def startUpDelayMs : Nat := 10

/-- R147: the consecutive-collision count at which a duplicate identity is declared. -/
def collisionLimit : Nat := 2

/-- R149: the consecutive-drive-fault count at which the drive trigger is reported. -/
def driveFaultLimit : Nat := 3

/-! Line thresholds, in half bit times (one T is two of them). -/

/-- R143: the gap, 12 T. -/
def gapHalves : Nat := 24

/-- R141: a falling edge opens a frame when the idle count is at least 11.5 T. -/
def openHalves : Nat := 23

/-- R152: a dominant run is long once it exceeds 9 T. -/
def longHalves : Nat := 18

/-- R152: a run of 24 T or more is a line break. -/
def breakHalves : Nat := 48

/-- R155: a run that reaches 4096 T is a stuck line. -/
def stuckHalves : Nat := 8192

/-- R153: a break is driven for 32 T. -/
def breakDriveHalves : Nat := 64

/-- R150: a start bit must begin within 2 T after the middle of a stop bit. -/
def truncationHalves : Nat := 4

/-- R82: the two SENSE thresholds, in millivolts. -/
def senseLowMv : Nat := 1100
def senseNormalMv : Nat := 1200

end Sys2Proof.Config
end

