-- ==== Sys2Proof/Machine/State.lean ====
section
/-!
DEFINITION. The state of a station, block by block (00 2.2), its value at power-on reset, and the reasons a step may
stop. Everything is plain data.
-/

namespace Sys2Proof.Machine

/-- A timer that runs down in milliseconds and keeps nothing once stopped. -/
inductive Timer
  | stopped
  | running (remaining : Nat)
deriving DecidableEq, Repr

/-- R72, R100: a timer that stays expired until it is started or stopped again. -/
inductive LatchingTimer
  | stopped
  | running (remaining : Nat)
  | expired
deriving DecidableEq, Repr

/-! ### Station Control -/

/-- R125, R126: which reset record is owed at the end of START. -/
inductive StartKind
  | powerOn | stationReset
deriving DecidableEq, Repr

/-- STC: its own holdings (00 2.2) and the two reset conditions (R113). -/
structure Stc where
  station      : StationState
  startKind    : StartKind
  porApplied   : Bool
  srstApplied  : Bool
  straps       : Straps
  uptime       : BitVec 32
  startUpDelay : Timer
  listenIn     : Timer
  quiet        : Timer
  /-- The model's own field: half bit times since the last whole millisecond (log entry 2). -/
  msPhase      : Nat
deriving DecidableEq, Repr

/-! ### Line Interface -/

/-- R142: a frame in reception. `chars` are the characters taken so far; `phase` counts half bits from the leading edge
of the running character, none between characters; `shift` collects its data bits; `wait` counts half bits since the
middle of the last stop bit (R150). `exempt` says that no reception error is recorded for this frame (R150). -/
structure Reception where
  chars  : List Byte
  phase  : Option Nat
  shift  : Byte
  wait   : Nat
  exempt : Bool
deriving DecidableEq, Repr

/-- R142: the receive state. -/
inductive Receive
  | outside
  | inFrame (r : Reception)
deriving DecidableEq, Repr

/-- R142: the drive state. FRAME holds the frame fixed at transmission start (R130) and the half bits since then. BREAK
holds the half bits driven (R153). -/
inductive Drive
  | none
  | frame (f : Frame) (elapsed : Nat)
  | brk (elapsed : Nat)
deriving DecidableEq, Repr

/-- R152: what has been reported of the dominant run in progress. -/
inductive RunClass
  | ordinary | long | stuck
deriving DecidableEq, Repr

/-- LIF (R142). Line times are in half bit times. -/
structure Lif where
  receive      : Receive
  idle         : Nat
  lineDominant : Bool
  runLength    : Nat
  runClass     : RunClass
  drive        : Drive
  /-- R147: the attempt has met a readback mismatch after character 1, which awaits its class; nothing is driven for it. -/
  mismatch     : Bool
  /-- R144: the edge just seen may be joined; it lasts until time passes (log entry 15). -/
  joinWindow   : Bool
  /-- R146, R159, R161: an attempt has begun since the idle count last started from 0; no other begins in this gap (log
  entry 24). -/
  gapTaken     : Bool
  collisions   : Fin 3
  driveFaults  : Fin 4
  rxErrors     : BitVec 16
deriving DecidableEq, Repr

/-! ### Transmit Queue -/

/-- 9.1: an entry with the fields fixed at its request. -/
inductive Entry
  | fault (f : FaultFields)
  | rankTimeout (k : Rank)
  | memberSilent (subject : StationId)
  | advance (old new : Front)
  | hold (a : HoldAction)
  | ready (senderRank : Rank)
  | query (target : StationId) (item : Item) (tag : Tag)
  | reply (r : ReplyFields)
  | announce
deriving DecidableEq, Repr

/-- 9.1: the key of an entry; no two entries share one (R157). -/
inductive Key
  | fault
  | rankTimeout (k : Rank)
  | memberSilent (subject : StationId)
  | advance
  | hold
  | ready
  | query (slot : SlotIx)
  | reply (requester : StationId) (tag : Tag)
  | announce
deriving DecidableEq, Repr

/-- R160: the item remembered beside the entry in flight. -/
inductive Remembered
  | cancellation
  | fault (f : FaultFields)
  | hold (a : HoldAction)
deriving DecidableEq, Repr

/-- TXQ (R157): the entries, oldest first; the key in flight; the remembered item. -/
structure Txq where
  entries    : List Entry
  inFlight   : Option Key
  remembered : Option Remembered
deriving DecidableEq, Repr

/-! ### Domain View Unit -/

/-- 1.4: a membership record. -/
structure Record where
  present    : Bool
  rank       : Rank
  board      : BoardState
  ready      : Bool
  late       : Bool
  silence    : Fin 5
  joined     : Epoch
  disagree   : Bool
  budget     : Budget
  logPending : Bool
deriving DecidableEq, Repr

/-- DVU: the view (1.1) and its four timers. The hold set is one flag per station ID (R7). The rank settle timer is
paused exactly while the hold set is non-empty (R40). -/
structure Dvu where
  epoch         : Epoch
  base          : Rank
  front         : Front
  gather        : Bool
  gatherExpired : Bool
  holdSet       : Vector Bool 32
  records       : Vector Record 32
  announce      : Timer
  gatherTimer   : Timer
  settle        : Timer
  holdLimit     : LatchingTimer
deriving DecidableEq, Repr

/-! ### Board Supervisor -/

/-- R77: the watchdog with its timer. -/
inductive Watchdog
  | disarmed
  | first (remaining : Nat)
  | running (remaining : Nat)
deriving DecidableEq, Repr

/-- R82: the supply band. -/
inductive Band
  | low | normal
deriving DecidableEq, Repr

/-- BSU (R70). -/
structure Bsu where
  board    : BoardState
  holdDown : LatchingTimer
  recovery : Timer
  watchdog : Watchdog
  fltLatch : Level
  band     : Band
  budget   : Budget
  stable   : Timer
deriving DecidableEq, Repr

/-! ### Query Unit -/

inductive SlotState
  | free | waiting | done
deriving DecidableEq, Repr

inductive QueryOutcome
  | ok | noAnswer | dropped
deriving DecidableEq, Repr

/-- R168: a query slot. -/
structure Slot where
  state   : SlotState
  gen     : Fin 4
  target  : StationId
  item    : Item
  outcome : QueryOutcome
  status  : ReplyStatus
  data1   : Byte
  data2   : Byte
  timer   : Timer
deriving DecidableEq, Repr

/-- R169: the last-fault memory. -/
structure LastFault where
  cause : Cause
  scope : Scope
  epoch : Epoch
deriving DecidableEq, Repr

structure Qru where
  slots     : Vector Slot 4
  lastFault : Option LastFault
deriving DecidableEq, Repr

/-! ### Cause Log -/

/-- R178: a cause record. NONE is written `none`. -/
structure CauseRecord where
  seq        : Byte
  cause      : Cause
  scope      : Option Scope
  origin     : Option StationId
  epoch      : Epoch
  base       : Option Rank
  uptime     : BitVec 32
  lossBefore : Bool
  detail     : Bool
deriving DecidableEq, Repr

/-- CLG (R179): the records, oldest first, and the next sequence number. -/
structure Clg where
  records : List CauseRecord
  nextSeq : Byte
deriving DecidableEq, Repr

/-! ### Local Port -/

/-- R187, R176: what a completed delivery removes. -/
inductive Mark
  | record (seq : Byte)
  | slot (i : SlotIx)
deriving DecidableEq, Repr

/-- R188: SCS_N as the port has it: high; low, in a transaction; or low still in a transaction that a reset has ended
(R127). -/
inductive Scs
  | high | low | cut
deriving DecidableEq, Repr

/-- LPT (R188). `observed` says that the transaction began outside START (R114); `shifted` counts the bytes of the response
that have been shifted out whole. -/
structure Lpt where
  scs      : Scs
  observed : Bool
  received : List Byte
  taken    : Bool
  response : List Byte
  shifted  : Nat
  mark     : Option Mark
deriving DecidableEq, Repr

/-! ### The station -/

/-- The whole station, and the commands that wait, first in first out. -/
structure State where
  stc     : Stc
  lif     : Lif
  txq     : Txq
  dvu     : Dvu
  bsu     : Bsu
  qru     : Qru
  clg     : Clg
  lpt     : Lpt
  pending : List Instr
deriving DecidableEq, Repr

/-- No constructor: nothing stops the station, and what the manual calls a fault is an effect on State. Safe. -/
inductive Fault
deriving DecidableEq, Repr

/-- The refusals. -/
inductive Refusal
  /-- Raised by an arm of `exec` whose command has no meaning yet, under its mnemonic; no arm does. Safe: the model
  stops. -/
  | notModelled (mnemonic : String)
deriving DecidableEq, Repr

/-! ### Reset -/

/-- The straps while nothing is sampled (R108: not defined, and no block acts on them). DESIGN CHOICE: every pin low
(log entry 7). -/
def unsampledStraps : Straps := ⟨0, 0, .p0, .k50, 0, .low, .low, .low⟩

/-- R2: a record at reset. -/
def Record.reset : Record := ⟨false, 0, .held, false, false, 0, 0, false, 0, false⟩

/-- R168: a slot at reset. -/
def Slot.reset : Slot := ⟨.free, 0, 0, .status, .ok, .ok, 0, 0, .stopped⟩

/-- R113, R125: STC with the power-on reset applied. -/
def Stc.reset : Stc := ⟨.start, .powerOn, true, false, unsampledStraps, 0, .stopped, .stopped, .stopped, 0⟩

/-- R142. -/
def Lif.reset : Lif := ⟨.outside, 0, false, 0, .ordinary, .none, false, false, false, 0, 0, 0⟩

/-- R157. -/
def Txq.reset : Txq := ⟨[], none, none⟩

/-- R2, R107. -/
def Dvu.reset : Dvu :=
  ⟨0, 0, .none, false, false, Vector.replicate 32 false, Vector.replicate 32 Record.reset, .stopped, .stopped, .stopped,
    .stopped⟩

/-- R70. -/
def Bsu.reset : Bsu := ⟨.held, .stopped, .stopped, .disarmed, .high, .low, 0, .stopped⟩

/-- R168, R169. -/
def Qru.reset : Qru := ⟨Vector.replicate 4 Slot.reset, none⟩

/-- R179. -/
def Clg.reset : Clg := ⟨[], 0⟩

/-- R188. -/
def Lpt.reset : Lpt := ⟨.high, false, [], false, [], 0, none⟩

/-- R125: the station with the power-on reset applied (log entry 8). -/
def State.reset : State :=
  ⟨Stc.reset, Lif.reset, Txq.reset, Dvu.reset, Bsu.reset, Qru.reset, Clg.reset, Lpt.reset, []⟩

end Sys2Proof.Machine
end

