-- ==== Sys2Proof/Machine/Timing.lean ====
section
/-!
DEFINITION. Straps read as configuration (R109) and the intervals of the timing profiles, in milliseconds (R110).
-/

namespace Sys2Proof.Machine

/-! ### The straps (R109) -/

/-- R109: the binary number on the pins of a strap, lowest-numbered pin first: a high level is a 1, and the
highest-numbered pin is the most significant. -/
def pinsNumber : List Level → Nat
  | [] => 0
  | pin :: higher => (if pin = .high then 1 else 0) + 2 * pinsNumber higher

theorem pinsNumber_lt (pins : List Level) : pinsNumber pins < 2 ^ pins.length := by
  induction pins with
  | nil => decide
  | cons pin higher ih =>
    have h : (if pin = Level.high then 1 else 0) ≤ 1 := by split <;> decide
    simp only [pinsNumber, List.length_cons, Nat.pow_succ]
    omega

/-- R109: the value read on a strap of `n` pins. -/
def strapValue {n : Nat} (pins : Vector Level n) : Fin (2 ^ n) :=
  ⟨pinsNumber pins.toList, by simpa using pinsNumber_lt pins.toList⟩

/-- R109: the profile a PROF value names. -/
def profileOf (v : Fin 4) : Profile := if v = 0 then .p0 else if v = 1 then .p1 else if v = 2 then .p2 else .p3

/-- R109: the line rate an LRATE value names. -/
def lineRateOf (v : Fin 4) : LineRate := if v = 0 then .k50 else if v = 1 then .k100 else if v = 2 then .k200 else .k400

/-- R108, R109: the configuration that the strap pins give. -/
def readStraps (p : StrapPins) : Straps :=
  { id := strapValue p.id, rank := strapValue p.rank, prof := profileOf (strapValue p.prof)
    lrate := lineRateOf (strapValue p.lrate), cont := strapValue p.cont
    lateAct := p.lateAct, fltMode := p.fltMode, isoPol := p.isoPol }

/-! ### Intervals (R110) -/

def announcePeriod : Profile → Nat
  | .p0 => 50
  | .p1 => 100
  | .p2 => 250
  | .p3 => 500

/-- R116: 3 announce periods. -/
def listenInterval (p : Profile) : Nat := 3 * announcePeriod p

/-- R6: 4 announce periods. -/
def gatherInterval (p : Profile) : Nat := 4 * announcePeriod p

/-- R173: 4 announce periods. -/
def queryTimeout (p : Profile) : Nat := 4 * announcePeriod p

/-- R121: 1 announce period. -/
def quietInterval (p : Profile) : Nat := announcePeriod p

def holdDownInterval : Profile → Nat
  | .p0 => 20
  | .p1 => 50
  | .p2 => 100
  | .p3 => 200

def recoveryInterval : Profile → Nat
  | .p0 => 100
  | .p1 => 250
  | .p2 => 500
  | .p3 => 1000

def settleInterval : Profile → Nat
  | .p0 => 1000
  | .p1 => 5000
  | .p2 => 20000
  | .p3 => 60000

def firstKickInterval : Profile → Nat
  | .p0 => 2000
  | .p1 => 5000
  | .p2 => 10000
  | .p3 => 30000

def watchdogPeriod : Profile → Nat
  | .p0 => 200
  | .p1 => 500
  | .p2 => 1000
  | .p3 => 2000

def stableInterval : Profile → Nat
  | .p0 => 10000
  | .p1 => 30000
  | .p2 => 60000
  | .p3 => 120000

def holdLimitInterval : Profile → Nat
  | .p0 => 10000
  | .p1 => 30000
  | .p2 => 60000
  | .p3 => 300000

/-- R109: half bit times in one millisecond. T is 20, 10, 5 or 2.5 µs. -/
def halvesPerMs : LineRate → Nat
  | .k50 => 100
  | .k100 => 200
  | .k200 => 400
  | .k400 => 800

/-- R85, R109: the scope the CONT strap gives a WDOG, BOARDFLT or SUPPLY fault. -/
def contScope (cont : Fin 4) : Scope :=
  if cont = 0 then .local else if cont = 1 then .rank else .domain

end Sys2Proof.Machine
end

