-- ==== Sys2Proof/Machine/Ops.lean ====
section
/-!
DEFINITION. The shared operations on the station's tables: the membership table, the hold set, the own record's mirror
and the Cause Log, with the timers' small helpers.
-/

namespace Sys2Proof.Machine

/-! ### One block replaced -/

def State.setStc (s : State) (c : Stc) : State := { s with stc := c }

def State.setLif (s : State) (l : Lif) : State := { s with lif := l }

def State.setTxq (s : State) (q : Txq) : State := { s with txq := q }

def State.setDvu (s : State) (d : Dvu) : State := { s with dvu := d }

/-- The BSU replaced where the own record has nothing to follow (R9); elsewhere `State.setBsu`. -/
def State.putBsu (s : State) (b : Bsu) : State := { s with bsu := b }

def State.setQru (s : State) (q : Qru) : State := { s with qru := q }

def State.setClg (s : State) (c : Clg) : State := { s with clg := c }

def State.setLpt (s : State) (p : Lpt) : State := { s with lpt := p }

def State.setPending (s : State) (q : List Instr) : State := { s with pending := q }

/-! ### The station's own names -/

/-- The own station ID (00 4.7). -/
def State.self (s : State) : StationId := s.stc.straps.id

/-- The own rank. -/
def State.rank (s : State) : Rank := s.stc.straps.rank

def State.profile (s : State) : Profile := s.stc.straps.prof

def State.isMember (s : State) : Bool := s.stc.station == .member

/-- R69: BRST_N is released exactly in RUNUP and READY; there the board runs. -/
def boardRunning : BoardState → Bool
  | .runup | .ready => true
  | .held | .recover | .excluded => false

/-- The board is RUNUP or READY. -/
def State.running (s : State) : Bool := boardRunning s.bsu.board

/-! ### Timers -/

def Timer.isRunning : Timer → Bool
  | .running _ => true
  | .stopped => false

/-- A running timer with nothing left. -/
def Timer.isDue : Timer → Bool
  | .running 0 => true
  | _ => false

/-- One millisecond of a timer. -/
def Timer.tick : Timer → Timer
  | .running n => .running (n - 1)
  | .stopped => .stopped

def LatchingTimer.isRunning : LatchingTimer → Bool
  | .running _ => true
  | _ => false

def LatchingTimer.isDue : LatchingTimer → Bool
  | .running 0 => true
  | _ => false

def LatchingTimer.tick : LatchingTimer → LatchingTimer
  | .running n => .running (n - 1)
  | t => t

def Watchdog.isArmed : Watchdog → Bool
  | .disarmed => false
  | _ => true

def Watchdog.isDue : Watchdog → Bool
  | .first 0 | .running 0 => true
  | _ => false

def Watchdog.tick : Watchdog → Watchdog
  | .first n => .first (n - 1)
  | .running n => .running (n - 1)
  | .disarmed => .disarmed

/-! ### Tables of 32 -/

/-- `f k x` for every element, `k` counting from the given number. -/
def mapFrom {α : Type} (f : Nat → α → α) : Nat → List α → List α
  | _, [] => []
  | k, x :: xs => f k x :: mapFrom f (k + 1) xs

theorem mapFrom_length {α : Type} (f : Nat → α → α) (k : Nat) (l : List α) : (mapFrom f k l).length = l.length := by
  induction l generalizing k with
  | nil => rfl
  | cons x xs ih => simp [mapFrom, ih]

/-- Every element of a table changed by a function of its index. -/
def mapTable {α : Type} {n : Nat} (f : Fin n → α → α) (t : Vector α n) : Vector α n :=
  ⟨⟨mapFrom (fun k x => if h : k < n then f ⟨k, h⟩ x else x) 0 t.toArray.toList⟩, by simp [mapFrom_length]⟩

/-- Whether some element of a table meets a test. -/
def anyTable {α : Type} {n : Nat} (p : α → Bool) (t : Vector α n) : Bool := t.toArray.toList.any p

/-! ### The hold set (R7) -/

def holdEmpty (h : Vector Bool 32) : Bool := !anyTable (fun b => b) h

/-- The number of IDs in the hold set. -/
def holdSize (h : Vector Bool 32) : Nat := h.toArray.toList.count true

/-- The hold set is empty. -/
def State.holdClear (s : State) : Bool := holdEmpty s.dvu.holdSet

def State.setHold (s : State) (h : Vector Bool 32) : State := s.setDvu { s.dvu with holdSet := h }

/-! ### The membership table -/

/-- The record of a station. -/
def State.record (s : State) (i : StationId) : Record := s.dvu.records[i]

def State.setRecords (s : State) (t : Vector Record 32) : State := s.setDvu { s.dvu with records := t }

/-- One record changed. -/
def State.updateRecord (s : State) (i : StationId) (f : Record → Record) : State :=
  s.setRecords (s.dvu.records.set i (f (s.record i)))

/-- R8: a record that becomes present: joined epoch the station's epoch, late and disagree clear, silence age 0. -/
def Record.join (r : Record) (epoch : Epoch) : Record :=
  { r with present := true, joined := epoch, late := false, disagree := false, silence := 0 }

/-- R8: a record that becomes absent. -/
def Record.leave (r : Record) : Record :=
  { r with present := false, ready := false, late := false, disagree := false, silence := 0 }

/-- R8: an absent record becomes present; a present one is left. -/
def Record.joinIfAbsent (r : Record) (epoch : Epoch) : Record := if r.present then r else r.join epoch

/-- R9, R10: the own record as the station's own blocks have it: rank, board state, budget count and log pending copied,
ready kept only while the board is READY. -/
def Record.mirror (r : Record) (rank : Rank) (board : BoardState) (budget : Budget) (logPending : Bool) : Record :=
  { r with rank := rank, board := board, budget := budget, logPending := logPending,
           ready := r.ready && (board == .ready) }

/-- R183: the log-pending flag. -/
def State.logPending (s : State) : Bool := !s.clg.records.isEmpty

/-- R9: while MEMBER, each change of board state, budget count or log presence is copied into the own record. In every
other state the own record is not touched (R1). -/
def State.mirrorOwn (s : State) : State :=
  if s.isMember then s.updateRecord s.self (fun r => r.mirror s.rank s.bsu.board s.bsu.budget s.logPending) else s

/-! ### The Cause Log (R178 to R182) -/

/-- R182: the oldest record leaves and its successor is marked. -/
def dropOldest : List CauseRecord → List CauseRecord
  | _ :: next :: rest => { next with lossBefore := true } :: rest
  | _ => []

/-- R187: the mark of a record that has left the log by overflow marks nothing. -/
def clearMark (mark : Option Mark) (log : List CauseRecord) : Option Mark :=
  match mark, log with
  | some (.record seq), r :: _ => if r.seq = seq then none else mark
  | _, _ => mark

/-- R182: room is made in a full log. -/
def State.makeRoom (s : State) : State :=
  if s.clg.records.length < Config.logCapacity then s
  else (s.setClg { s.clg with records := dropOldest s.clg.records }).setLpt
    { s.lpt with mark := clearMark s.lpt.mark s.clg.records }

/-- The record an append writes: the next sequence number, the station's epoch and uptime (R178, R179). -/
def State.causeRecord (s : State) (cause : Cause) (scope : Option Scope) (origin : Option StationId)
    (base : Option Rank) (detail : Bool) : CauseRecord :=
  ⟨s.clg.nextSeq, cause, scope, origin, s.dvu.epoch, base, s.stc.uptime, false, detail⟩

/-- R179: a record joins as the youngest and the sequence number moves on. -/
def State.pushRecord (s : State) (r : CauseRecord) : State :=
  s.setClg { records := s.clg.records ++ [r], nextSeq := s.clg.nextSeq + 1 }

/-- An append to the Cause Log, copied into the own record when the log was empty (R9). -/
def State.append (s : State) (cause : Cause) (scope : Option Scope) (origin : Option StationId) (base : Option Rank)
    (detail : Bool := false) : State :=
  (s.makeRoom.pushRecord (s.causeRecord cause scope origin base detail)).mirrorOwn

/-- R187: the oldest record is removed. -/
def State.removeOldest (s : State) : State :=
  (s.setClg { s.clg with records := s.clg.records.tail }).mirrorOwn

end Sys2Proof.Machine
end

