-- ==== Sys2Proof/Machine/Queue.lean ====
section
/-!
DEFINITION. Chapter 9: the Transmit Queue: requests and their merging, the order and the offered entry, the entry in
flight, cancellation, the purge and the full-queue policy.
-/

namespace Sys2Proof.Machine

/-- 9.1: the key of an entry. -/
def Entry.key : Entry → Key
  | .fault _ => .fault
  | .rankTimeout k => .rankTimeout k
  | .memberSilent t => .memberSilent t
  | .advance _ _ => .advance
  | .hold _ => .hold
  | .ready _ => .ready
  | .query _ _ tag => .query tag.slot
  | .reply r => .reply r.requester r.tag
  | .announce => .announce

/-- R159: the class code of an entry; a lower code is more urgent. -/
def Entry.urgency : Entry → Nat
  | .fault _ => 0
  | .rankTimeout _ => 1
  | .memberSilent _ => 1
  | .advance _ _ => 2
  | .hold _ => 3
  | .ready _ => 4
  | .query _ _ _ => 5
  | .reply _ => 6
  | .announce => 7

/-! ### FAULT width (R50) and absorption (R58) -/

/-- R50: the width of a FAULT, narrower faults having the greater number: DOMAIN, then RANK by rewind rank, then
LOCAL. -/
def faultWidth (f : FaultFields) : Nat :=
  match f.scope with
  | .domain => 0
  | .rank => 1 + f.rewindRank.val
  | .local => 9

/-- R50: a request merged into a pending FAULT. A START request replaces the fields whatever its width. -/
def mergeFault (held new : FaultFields) : FaultFields :=
  if new.cause = .start ∨ faultWidth new < faultWidth held then
    { held with cause := new.cause, scope := new.scope, rewindRank := new.rewindRank }
  else held

/-- R58: whether a rewind to `b` absorbs a pending own FAULT of a station of rank `own`. -/
def faultAbsorbed (f : FaultFields) (b own : Rank) : Bool :=
  f.cause == .start ||
    match f.scope with
    | .domain => b == 0
    | .rank => decide (b ≤ f.rewindRank)
    | .local => decide (b ≤ own)

/-! ### Requests (R158, R160, R165) -/

/-- Whether a key is held, in flight or not. -/
def Txq.holds (q : Txq) (k : Key) : Bool := q.entries.any (fun e => e.key == k)

/-- R158: what a request makes of the pending entry of its key. -/
def Entry.mergeRequest (held new : Entry) : Entry :=
  match held, new with
  | .fault f, .fault g => .fault (mergeFault f g)
  | .hold _, .hold a => .hold a
  | .reply _, .reply r => .reply r
  | held, _ => held

/-- R160: what the queue remembers beside the entry in flight once a request for its key has come. -/
def rememberRequest (rem : Option Remembered) (e : Entry) : Option Remembered :=
  match e, rem with
  | .fault g, some (.fault f) => some (.fault (mergeFault f g))
  | .fault g, _ => some (.fault g)
  | .hold a, _ => some (.hold a)
  | _, some .cancellation => none
  | _, rem => rem

/-- R165: the entries that may be discarded. -/
def Txq.waiting (q : Txq) : List Entry := q.entries.filter (fun e => q.inFlight ≠ some e.key)

/-- R165: the class code of the least urgent waiting entry; 0 where none waits. -/
def Txq.leastUrgent (q : Txq) : Nat := (q.waiting.map Entry.urgency).foldl max 0

/-- R165: the youngest waiting entry of a class. -/
def Txq.youngestOf (q : Txq) (code : Nat) : Option Entry := (q.waiting.reverse.find? (fun e => e.urgency == code))

/-- The entries but the one of a key. -/
def removeKey (entries : List Entry) (k : Key) : List Entry := entries.filter (fun e => e.key ≠ k)

/-- R165: a new entry meets the queue; the discarded entry or request, if any, is returned beside it. -/
def Txq.add (q : Txq) (e : Entry) : Txq × Option Entry :=
  if q.entries.length < Config.queueCapacity then ({ q with entries := q.entries ++ [e] }, none)
  else if e.urgency < q.leastUrgent then
    match q.youngestOf q.leastUrgent with
    | some d => ({ q with entries := removeKey q.entries d.key ++ [e] }, some d)
    | none => (q, some e)
  else (q, some e)

/-- R158, R160: a request. -/
def Txq.request (q : Txq) (e : Entry) : Txq × Option Entry :=
  if q.holds e.key then
    if q.inFlight = some e.key then ({ q with remembered := rememberRequest q.remembered e }, none)
    else ({ q with entries := q.entries.map (fun h => if h.key = e.key then h.mergeRequest e else h) }, none)
  else q.add e

/-- R173: a slot whose QUERY is discarded is DONE with DROPPED. -/
def Slot.drop (sl : Slot) : Slot :=
  { sl with state := .done, outcome := .dropped, status := .ok, data1 := 0, data2 := 0, timer := .stopped }

def State.updateSlot (s : State) (i : SlotIx) (f : Slot → Slot) : State :=
  s.setQru { s.qru with slots := s.qru.slots.set i (f s.qru.slots[i]) }

/-- R166: a discarded QUERY is handed to the Query Unit, any other discard to no block. -/
def State.handDiscard (s : State) : Option Entry → State
  | some (.query _ _ tag) => s.updateSlot tag.slot Slot.drop
  | _ => s

/-- A request to the Transmit Queue, with what a discard does (R158, R160, R165, R166). -/
def State.request (s : State) (e : Entry) : State :=
  (s.setTxq (s.txq.request e).1).handDiscard (s.txq.request e).2

/-! ### Cancellation and the purge (R160, R162 to R164) -/

/-- R160, R163: a cancellation removes a waiting entry and is remembered beside one in flight. -/
def Txq.cancel (q : Txq) (k : Key) : Txq :=
  if q.inFlight = some k then { q with remembered := some .cancellation }
  else { q with entries := removeKey q.entries k }

def State.cancel (s : State) (k : Key) : State := s.setTxq (s.txq.cancel k)

/-- R164: whether a rewind, catch-up or adoption at `b` takes an entry away: ADVANCE, LAPSE and READY always, the FAULT
when it is absorbed (R58). -/
def Entry.purgedBy (b own : Rank) : Entry → Bool
  | .advance _ _ | .rankTimeout _ | .memberSilent _ | .ready _ => true
  | .fault f => faultAbsorbed f b own
  | .hold _ | .query _ _ _ | .reply _ | .announce => false

/-- R164: the purge; an entry in flight is not purged (R160). -/
def Txq.purge (q : Txq) (b own : Rank) : Txq :=
  { q with entries := q.entries.filter (fun e => q.inFlight = some e.key || !e.purgedBy b own) }

def State.purge (s : State) (b : Rank) : State := s.setTxq (s.txq.purge b s.rank)

/-! ### The entry in flight (R159, R161) -/

/-- The first entry in the order of R159: the least class code, the older first within a class. -/
def firstInOrder : List Entry → Option Entry
  | [] => none
  | e :: rest =>
    match firstInOrder rest with
    | some f => if f.urgency < e.urgency then some f else some e
    | none => some e

/-- R159: the offered entry. -/
def State.offered (s : State) : Option Entry := if s.isMember then firstInOrder s.txq.waiting else none

/-- R161: a failed attempt: the mark removed, the remembered item applied to the entry. -/
def Txq.fail (q : Txq) : Txq :=
  match q.inFlight with
  | none => q
  | some k =>
    let entries := match q.remembered with
      | none => q.entries
      | some .cancellation => removeKey q.entries k
      | some (.fault f) => q.entries.map (fun h => if h.key = k then h.mergeRequest (.fault f) else h)
      | some (.hold a) => q.entries.map (fun h => if h.key = k then h.mergeRequest (.hold a) else h)
    ⟨entries, none, none⟩

/-- R161: the arrived entry is removed; what was remembered leaves the queue with it. -/
def Txq.arrived (q : Txq) : Txq :=
  match q.inFlight with
  | none => q
  | some k => ⟨removeKey q.entries k, none, none⟩

/-- R130, R131: the frame an entry goes out as: the epoch, and for ANNOUNCE the whole content, filled now. -/
def State.fill (s : State) : Entry → Body
  | .fault f => .fault f
  | .rankTimeout k => .rankTimeout k
  | .memberSilent t => .memberSilent t
  | .advance old new => .advance old new
  | .hold a => .hold a
  | .ready r => .ready r
  | .query target item tag => .query target item tag
  | .reply r => .reply r
  | .announce => .announce
      ⟨s.rank, s.bsu.board, s.bsu.budget, s.dvu.front, s.dvu.base, s.dvu.gather, s.dvu.holdSet[s.self], s.logPending⟩

def State.frameOf (s : State) (e : Entry) : Frame := ⟨s.self, s.dvu.epoch, s.fill e⟩

end Sys2Proof.Machine
end

