-- ==== Sys2Proof/Machine/View.lean ====
section
/-!
DEFINITION. Epochs and their comparison (R3, R4), blocking members (R27), the advance condition and its evaluation
(R29 to R31), the domain phase (R39) and the view check's rewind rank (R15).
-/

namespace Sys2Proof.Machine

/-! ### Epochs -/

/-- R3: the successor of an epoch; 0 is nobody's successor. -/
def epochSucc (e : Epoch) : Epoch := if e = 255 then 1 else e + 1

/-- R4: how a frame's epoch is judged. -/
inductive EpochOrder
  | equal | newer | older
deriving DecidableEq, Repr

/-- R4: the epoch `a` of a frame from `sender`, judged by the station `self` of epoch `b`. -/
def compareEpoch (a b : Epoch) (sender self : StationId) : EpochOrder :=
  if a = b then .equal
  else if b = 0 then .newer
  else if a = 0 then .older
  else if (a - b).toNat < 128 then .newer
  else if (a - b).toNat = 128 then (if sender < self then .newer else .older)
  else .older

/-- The judgement of a frame's epoch at this station. -/
def State.judge (s : State) (sender : StationId) (epoch : Epoch) : EpochOrder :=
  compareEpoch epoch s.dvu.epoch sender s.self

/-! ### Fronts -/

/-- 00 4.3: the rank is at or below the front. -/
def frontReaches (f : Front) (r : Rank) : Bool := decide ((r.val : Int) ≤ frontValue f)

/-- R5: the front a rewind to `b` leaves: b − 1, NONE when `b` is 0. -/
def frontBelow (b : Rank) : Front := if b.val = 0 then .none else .rank ⟨b.val - 1, by omega⟩

/-- R40: whether the settle timer runs at this front. -/
def frontIsRank : Front → Bool
  | .rank _ => true
  | _ => false

/-- The eight ranks, lowest first. -/
def ranks : List Rank := [0, 1, 2, 3, 4, 5, 6, 7]

/-! ### Blocking members (R27) -/

/-- R27: a record blocks under a front. -/
def Record.blocking (r : Record) (front : Front) : Bool :=
  r.present && frontReaches front r.rank && !r.ready && !r.late && r.board != .excluded

def Dvu.someBlocking (d : Dvu) : Bool := anyTable (fun r => r.blocking d.front) d.records

/-- R41: the lowest rank among the blocking records. -/
def Dvu.lowestBlocking (d : Dvu) : Option Rank :=
  ranks.find? (fun k => anyTable (fun r => r.blocking d.front && r.rank == k) d.records)

/-! ### The advance condition (R29 to R31) -/

/-- R29. -/
def State.advanceCondition (s : State) : Bool :=
  s.isMember && s.dvu.front != .all && s.holdClear && (!s.dvu.gather || s.dvu.gatherExpired)
    && !s.dvu.someBlocking && !s.txq.holds .advance

/-- R30: the new front of a requested ADVANCE: the lowest rank above the front that a present record holds, else
ALL. -/
def Dvu.nextFront (d : Dvu) : Front :=
  match ranks.find? (fun k => !frontReaches d.front k && anyTable (fun r => r.present && r.rank == k) d.records) with
  | some k => .rank k
  | none => .all

/-- R31: the advance condition evaluated: where it holds, an ADVANCE is requested with the fields of R30. -/
def State.evalAdvance (s : State) : State :=
  if s.advanceCondition then s.request (.advance s.dvu.front s.dvu.nextFront) else s

/-- R31: the fields of a record whose change calls for an evaluation. -/
def Record.terms (r : Record) : Bool × Rank × Bool × Bool × BoardState := (r.present, r.rank, r.ready, r.late, r.board)

/-- R31: whether an event changed a term of the advance condition in the view. -/
def termsChanged (d e : Dvu) : Bool :=
  d.front != e.front || d.holdSet != e.holdSet || d.gather != e.gather || d.gatherExpired != e.gatherExpired
    || d.records.toArray.toList.map Record.terms != e.records.toArray.toList.map Record.terms

/-- R31: the evaluation after an event that found the view `before`. -/
def State.settleTerms (s : State) (before : Dvu) : State := if termsChanged before s.dvu then s.evalAdvance else s

/-! ### Timers of the view -/

def Dvu.startSettle (d : Dvu) (p : Profile) : Dvu :=
  { d with settle := if frontIsRank d.front then .running (settleInterval p) else .stopped }

def Dvu.startGather (d : Dvu) (p : Profile) : Dvu :=
  { d with gatherTimer := if d.gather then .running (gatherInterval p) else .stopped }

/-- R1: the four timers stop when the station leaves MEMBER. -/
def Dvu.stopTimers (d : Dvu) : Dvu :=
  { d with announce := .stopped, gatherTimer := .stopped, settle := .stopped, holdLimit := .stopped }

/-! ### Phase and view check -/

/-- R39: the phase of the domain, by its code in GET-STATUS (0 GATHER, 1 RISING, 2 SETTLED). -/
def Dvu.phaseCode (d : Dvu) : BitVec 2 :=
  if d.gather then 0#2 else if d.front = .all then 2#2 else 1#2

/-- R15: the rewind rank of a view difference. -/
def viewRewindRank (d : Dvu) (a : AnnounceFields) : Rank :=
  if d.front ≠ a.front then
    let n := (min (frontValue d.front) (frontValue a.front) + 1).toNat
    if h : n < 8 then ⟨n, h⟩ else 7
  else min d.base a.base

/-- R15: the three items agree. -/
def viewAgrees (d : Dvu) (a : AnnounceFields) : Bool :=
  d.front == a.front && d.base == a.base && d.gather == a.gather

/-- R15, R41, R48: the scope of a fault that would rewind to `b`. -/
def scopeOfRewind (b : Rank) : Scope := if b = 0 then .domain else .rank

/-! ### Hold set changes (R98, R99, R101) -/

/-- R163: the hold set of a MEMBER has become non-empty: the pending ADVANCE is cancelled. -/
def State.freezeIf (s : State) (wasClear : Bool) : State :=
  if wasClear && !s.holdClear then s.cancel .advance else s

def State.addHold (s : State) (i : StationId) : State :=
  (s.setHold (s.dvu.holdSet.set i true)).freezeIf s.holdClear

def State.removeHold (s : State) (i : StationId) : State := s.setHold (s.dvu.holdSet.set i false)

/-- R101: the holding flag of an applied ANNOUNCE. -/
def State.reconcile (s : State) (i : StationId) (holding : Bool) : State :=
  if holding then s.addHold i else s.removeHold i

end Sys2Proof.Machine
end

