-- ==== Sys2Proof/Machine/Board.lean ====
section
/-!
DEFINITION. Chapter 4: the board: containment, release, local faults.
-/

namespace Sys2Proof.Machine

/-- R9: the BSU changed, and the own record with it. -/
def State.setBsu (s : State) (b : Bsu) : State := (s.putBsu b).mirrorOwn

/-- R72, R77, R88: the BSU after a running board has gone to `target`: BRST_N asserted, hold-down started, watchdog
disarmed, stable-interval timer stopped. -/
def Bsu.contain (b : Bsu) (p : Profile) (target : BoardState) : Bsu :=
  { b with board := target, holdDown := .running (holdDownInterval p), watchdog := .disarmed, stable := .stopped }

/-- A running board leaves RUNUP or READY for `target`; a READY entry that waits is cancelled (R75, R84, R163). -/
def State.contain (s : State) (target : BoardState) : State :=
  (s.setBsu (s.bsu.contain s.profile target)).cancel .ready

/-- R57, R92, R93: a running board goes to HELD; every other board stays. -/
def State.holdRunning (s : State) : State := if s.running then s.contain .held else s

/-- R71: the release condition. -/
def State.releaseCondition (s : State) : Bool :=
  s.isMember && frontReaches s.dvu.front s.rank && s.bsu.holdDown == .expired && s.bsu.band == .normal
    && (s.stc.straps.fltMode == .low || s.bsu.fltLatch == .high)

/-- R71, R77: the release condition evaluated for a HELD board. -/
def State.evalRelease (s : State) : State :=
  if s.bsu.board == .held && s.releaseCondition then
    s.setBsu { s.bsu with board := .runup, watchdog := .first (firstKickInterval s.profile) }
  else s

/-- R85, R48: the fields of the FAULT of a local fault. A RANK scope at rank 0 goes out as DOMAIN. -/
def localFaultFields (cause : Cause) (scope : Scope) (own : Rank) : FaultFields :=
  match scope with
  | .local => ⟨cause, .local, own, own⟩
  | .rank => if own = 0 then ⟨cause, .domain, own, 0⟩ else ⟨cause, .rank, own, own⟩
  | .domain => ⟨cause, .domain, own, 0⟩

/-- R88: the causes that count toward the budget. -/
def causeCounts : Cause → Bool
  | .wdog | .boardFlt => true
  | _ => false

/-- R180: the base rank of a detection record, NONE for LOCAL. -/
def faultRecordBase (f : FaultFields) : Option Rank :=
  match f.scope with
  | .local => none
  | _ => some f.rewindRank

/-- R84 step 1: the budget count after a detection; it never passes 3. -/
def chargedBudget (n : Budget) (cause : Cause) : Budget :=
  if causeCounts cause then (if h : n.val + 1 < 4 then ⟨n.val + 1, h⟩ else 3) else n

/-- R84 step 2, R89: a counted detection has brought the budget to 3. -/
def exhausts (n : Budget) (cause : Cause) : Bool := causeCounts cause && chargedBudget n cause == 3

/-- R84 steps 1 to 4: the board contained in RECOVER or EXCLUDED. -/
def State.containFault (s : State) (cause : Cause) : State :=
  let b : Bsu := { s.bsu with budget := chargedBudget s.bsu.budget cause }
  if exhausts s.bsu.budget cause then (s.putBsu b).contain .excluded
  else (s.putBsu { b with recovery := .running (recoveryInterval s.profile) }).contain .recover

/-- R84, R85, R89: a local fault detected at this event; nothing where the board does not run. -/
def State.localFault (s : State) (cause : Cause) (scope : Scope) : State :=
  if s.running then
    let f := localFaultFields cause scope s.rank
    let s1 := (s.containFault cause).append cause (some f.scope) (some s.self) (faultRecordBase f)
    let s2 := if exhausts s.bsu.budget cause then s1.append .excluded none (some s.self) none else s1
    let s3 := s2.setQru { s2.qru with lastFault := some ⟨cause, f.scope, s.dvu.epoch⟩ }
    (s3.request (.fault f)).settleTerms s.dvu
  else s

/-- R84, R85: a local fault whose scope comes from the CONT strap. -/
def State.strapFault (s : State) (cause : Cause) : State := s.localFault cause (contScope s.stc.straps.cont)

end Sys2Proof.Machine
end

