-- ==== Sys2Proof/Machine/Domain.lean ====
section
/-!
DEFINITION. What moves a station as a whole: the rewind (R55 to R60), catch-up (R16), adoption (R24), founding (R25),
the departures to ISOLATED (R120) and BLOCKED (R123), and the end of an attempt (R146, R161).
-/

namespace Sys2Proof.Machine

/-! ### Attempts and reception -/

/-- R146, R161: an attempt in flight ends without an arrival; nothing where none is in flight. -/
def State.failAttempt (s : State) : State := s.setTxq s.txq.fail

def Drive.isFrame : Drive → Bool
  | .frame _ _ => true
  | _ => false

def Drive.isBreak : Drive → Bool
  | .brk _ => true
  | _ => false

/-- R146, R147: an attempt whose outcome has not been reported: its frame is being driven, or it has met a mismatch that
awaits its class. -/
def Lif.attempting (l : Lif) : Bool := l.drive.isFrame || l.mismatch

/-- R146: an attempt's frame is driven no more; a break that has taken over the drive goes on. -/
def Drive.stopFrame : Drive → Drive
  | .frame _ _ => .none
  | d => d

/-- R146, R120, R123, R153: the Line Interface stops driving its attempt; a break goes on through every change of station
state but a reset (log entry 10). -/
def Lif.stopSending (l : Lif) : Lif := { l with drive := l.drive.stopFrame, mismatch := false }

/-- R146: the attempt ends as failed. -/
def State.endAttempt (s : State) : State := s.failAttempt.setLif s.lif.stopSending

/-- R143: the idle count starts from 0, and with it the next gap, in which an attempt may begin (R146). -/
def Lif.restartIdle (l : Lif) : Lif := { l with idle := 0, gapTaken := false }

/-- R150: no reception error is recorded for the frame in reception. -/
def Receive.exempted : Receive → Receive
  | .inFrame r => .inFrame { r with exempt := true }
  | .outside => .outside

def State.exemptFrame (s : State) : State := s.setLif { s.lif with receive := s.lif.receive.exempted }

/-- R151: the received-error counter saturates. -/
def countError (n : BitVec 16) : BitVec 16 := if n = 65535 then n else n + 1

/-- R150, R143: the frame in reception is discarded, counted unless it is exempt; outside a frame nothing. -/
def State.discardFrame (s : State) : State :=
  match s.lif.receive with
  | .outside => s
  | .inFrame r =>
    s.setLif { s.lif.restartIdle with
      receive := .outside, rxErrors := if r.exempt then s.lif.rxErrors else countError s.lif.rxErrors }

/-! ### The rewind (R55 to R60) -/

/-- R56: a record at a rewind to `b`. -/
def Record.rewind (r : Record) (b : Rank) : Record :=
  if r.present then
    if b ≤ r.rank then { r with ready := false, late := false, board := .held } else { r with late := false }
  else r

/-- R56: the own record at a rewind to `b`: its board state follows the BSU. -/
def Record.rewindOwn (r : Record) (b : Rank) : Record :=
  if r.present then { r with late := false, ready := r.ready && !decide (b ≤ r.rank) } else r

/-- R55, R56: the view after a rewind to `b`. -/
def Dvu.rewind (d : Dvu) (b : Rank) (gather : Bool) (self : StationId) (p : Profile) : Dvu :=
  let front : Front := frontBelow b
  (({ d with
      epoch := epochSucc d.epoch, base := b, front := front, gather := gather, gatherExpired := false
      records := mapTable (fun i r => if i = self then r.rewindOwn b else r.rewind b) d.records } : Dvu).startSettle
      p).startGather p

/-- R57, R91: the own board at a rewind or catch-up to `b`, the view being already the new one: covered and running, it
goes to HELD; a HELD board is released if the new front allows it. -/
def State.boardRewind (s : State) (b : Rank) : State :=
  (if decide (b ≤ s.rank) then s.holdRunning else s).evalRelease

/-- R55 to R60: a rewind to `b`. The record to append is given, none at the sender of the FAULT (R59). -/
def State.rewind (s : State) (b : Rank) (cause : Cause) (record : Option (Option Scope × Option StationId)) : State :=
  let s1 := ((s.setDvu (s.dvu.rewind b (cause == .start) s.self s.profile)).boardRewind b).purge b
  let s2 := match record with
    | some (scope, origin) => s1.append cause scope origin (some b)
    | none => s1
  s2.evalAdvance

/-- R67: the rewind at the end of a line break. -/
def State.breakRewind (s : State) : State := s.rewind 0 .emrg (some (some .domain, none))

/-! ### The sender's record (R14, R17, R24) -/

/-- R14: the fields an applied ANNOUNCE gives the record of another station. -/
def Record.announced (r : Record) (a : AnnounceFields) : Record :=
  { r with rank := a.senderRank, board := a.board, budget := a.budget, logPending := a.logPending,
           ready := a.board == .ready, late := r.late && a.board != .ready }

/-- R17: the fields a refresh gives: a READY report neither sets ready nor clears late. -/
def Record.refreshed (r : Record) (a : AnnounceFields) : Record :=
  { r with rank := a.senderRank, board := a.board, budget := a.budget, logPending := a.logPending,
           ready := r.ready && a.board == .ready }

/-- R14, R10: the own ANNOUNCE touches the own record's ready flag alone. -/
def Record.ownAnnounced (r : Record) (a : AnnounceFields) (board : BoardState) : Record :=
  { r with ready := r.ready || (a.board == .ready && board == .ready) }

/-- R14: an ANNOUNCE applied to its sender's record, which becomes present if it was absent (R8). -/
def State.applyAnnounce (s : State) (sender : StationId) (a : AnnounceFields) : State :=
  s.updateRecord sender (fun r =>
    let r := r.joinIfAbsent s.dvu.epoch
    if sender = s.self then r.ownAnnounced a s.bsu.board else r.announced a)

/-! ### View check (R15) -/

/-- R15: a difference: disagree set, a VIEW record, a FAULT(VIEW) request. -/
def State.raiseView (s : State) (b : Rank) : State :=
  (s.append .view (some (scopeOfRewind b)) (some s.self) (some b)).request
    (.fault ⟨.view, scopeOfRewind b, s.rank, b⟩)

/-- R15: the view check of an equal-epoch ANNOUNCE. -/
def State.viewCheck (s : State) (sender : StationId) (a : AnnounceFields) : State :=
  if viewAgrees s.dvu a then s.updateRecord sender (fun r => { r with disagree := false })
  else (s.updateRecord sender (fun r => { r with disagree := true })).raiseView (viewRewindRank s.dvu a)

/-! ### Catch-up (R16) -/

/-- R16 steps 1 and 2: the adopted view. -/
def Dvu.catchUp (d : Dvu) (epoch : Epoch) (a : AnnounceFields) (p : Profile) : Dvu :=
  (({ d with
      epoch := epoch, base := a.base, front := a.front, gather := a.gather, gatherExpired := false
      records := mapTable (fun _ r =>
        if r.present then { r with late := false, ready := r.ready && !decide (a.base ≤ r.rank) } else r)
        d.records } : Dvu).startSettle p).startGather p

/-- R16, R91: catch-up to the view of an ANNOUNCE. -/
def State.catchUp (s : State) (sender : StationId) (epoch : Epoch) (a : AnnounceFields) : State :=
  let s1 := (s.setDvu (s.dvu.catchUp epoch a s.profile)).applyAnnounce sender a
  let s2 := ((s1.reconcile sender a.holding).boardRewind a.base).purge a.base
  ((s2.request .announce).append .catchUp none (some sender) (some a.base)).evalAdvance

/-! ### Entering MEMBER (R24, R25) -/

/-- R8, R9, R24, R25: the own record on entry to MEMBER. -/
def State.makeOwnPresent (s : State) : State :=
  s.updateRecord s.self (fun r =>
    { (r.join s.dvu.epoch).mirror s.rank s.bsu.board s.bsu.budget s.logPending with ready := false })

/-- R24 steps 1, 2 and 5: the adopted view before the two records. -/
def Dvu.adopt (d : Dvu) (sender : StationId) (epoch : Epoch) (a : AnnounceFields) (self : StationId) (p : Profile) :
    Dvu :=
  (({ d with
      epoch := epoch, base := a.base, front := a.front, gather := a.gather, gatherExpired := false
      holdSet := (Vector.replicate 32 false).set sender a.holding
      records := mapTable (fun i r => if i = self ∨ i = sender then r else r.leave) d.records
      announce := .running (announcePeriod p) } : Dvu).startSettle p).startGather p

/-- R24 step 4: the sender's record at adoption. -/
def Record.adopted (r : Record) (epoch : Epoch) (a : AnnounceFields) : Record := (r.join epoch).announced a

/-- R24, R117, R164: adoption from LISTEN. -/
def State.adopt (s : State) (sender : StationId) (epoch : Epoch) (a : AnnounceFields) : State :=
  let s1 := s.setStc { s.stc with station := .member, listenIn := .stopped }
  let s2 := (s1.setDvu (s1.dvu.adopt sender epoch a s.self s.profile)).makeOwnPresent
  let s3 := (s2.updateRecord sender (fun r => r.adopted epoch a)).purge a.base
  ((s3.request .announce).evalRelease).evalAdvance

/-- R100: the hold limit timer at founding. -/
def foundingHoldLimit (d : Dvu) (self : StationId) (p : Profile) : LatchingTimer :=
  if d.holdSet[self] then .running (holdLimitInterval p) else d.holdLimit

/-- R25, R63, R118: founding at the end of LISTEN. -/
def State.found (s : State) : State :=
  let s1 := s.setStc { s.stc with station := .member, listenIn := .stopped }
  let d : Dvu := ({ s.dvu with announce := .running (announcePeriod s.profile)
                               holdLimit := foundingHoldLimit s.dvu s.self s.profile } : Dvu)
  let s2 := (s1.setDvu (if frontIsRank d.front then d.startSettle s.profile else d)).makeOwnPresent
  ((s2.request (.fault ⟨.start, .domain, s.rank, 0⟩)).evalRelease).evalAdvance

/-! ### Leaving MEMBER (R120, R123) -/

/-- R121: the quiet timer at entry to ISOLATED. -/
def State.quietAtEntry (s : State) : Timer :=
  if s.lif.runClass = .ordinary then .running (quietInterval s.profile) else .stopped

/-- R120, R153: entry to ISOLATED; `drive` tells the DRIVE trigger from the STUCK one. An attempt ends; a break being driven
goes on. -/
def State.enterIsolated (s : State) (drive : Bool) : State :=
  let s1 := s.endAttempt.setStc { s.stc with station := .isolated, listenIn := .stopped, quiet := s.quietAtEntry }
  let s2 := s1.setLif { s1.lif with collisions := 0, driveFaults := 0 }
  let s3 := (s2.append .isolated none (some s.self) none drive).setDvu s.dvu.stopTimers
  if s.stc.straps.isoPol = .low then s3.holdRunning else s3

/-- R173: the timer of a WAITING slot at entry to BLOCKED. -/
def Slot.startStopped (sl : Slot) (p : Profile) : Slot :=
  if sl.state = .waiting ∧ sl.timer = .stopped then { sl with timer := .running (queryTimeout p) } else sl

/-- R94: the board at entry to BLOCKED. -/
def State.blockBoard (s : State) : State :=
  match s.bsu.board with
  | .runup | .ready => s.contain .held
  | .recover => s.setBsu { s.bsu with board := .held, recovery := .stopped }
  | .held | .excluded => s

/-- R123, R94, R153, R173: entry to BLOCKED. An attempt is abandoned; a break being driven goes on. -/
def State.enterBlocked (s : State) : State :=
  let s1 := (s.setStc { s.stc with station := .blocked }).setLif s.lif.stopSending
  let s2 := (s1.setTxq Txq.reset).setQru
    { s.qru with slots := mapTable (fun _ sl => sl.startStopped s.profile) s.qru.slots }
  ((s2.append .dupId none (some s.self) none).setDvu s.dvu.stopTimers).blockBoard

end Sys2Proof.Machine
end

