-- ==== Sys2Proof/Machine/Life.lean ====
section
/-!
DEFINITION. The commands of station life (chapter 6): the two resets and their release, the end of START, the listen-in
and quiet timers.
-/

namespace Sys2Proof.Machine

/-- The outcome of every command: a next state (log entry 4). -/
abbrev Result := Host.Outcome State Fault Refusal

/-! ### Resets (R113, R125, R126) -/

/-- R127, R188: a reset clears the port and ends a transaction in progress; SCS_N keeps its level. -/
def Lpt.cutOff (p : Lpt) : Lpt := { Lpt.reset with scs := if p.scs = .high then .high else .cut }

/-- R125: power-on reset, applied. SRST_N and SCS_N keep their levels. -/
def State.applyPowerOn (s : State) : State :=
  { State.reset with
    stc := { Stc.reset with srstApplied := s.stc.srstApplied }
    lpt := s.lpt.cutOff
    pending := s.pending }

/-- R125, R126: a start is a power-on start until its POWERON record has been appended. -/
def State.startKindAtReset (s : State) : StartKind :=
  if s.stc.station = .start ∧ s.stc.startKind = .powerOn then .powerOn else .stationReset

/-- R126: station reset, applied: all as at power-on reset but for the Cause Log. -/
def State.applyStationReset (s : State) : State :=
  { State.reset with
    stc := { Stc.reset with porApplied := s.stc.porApplied, srstApplied := true, startKind := s.startKindAtReset }
    clg := s.clg
    lpt := s.lpt.cutOff
    pending := s.pending }

/-- R125: VDD falls below its operating level. -/
def execPowerOnReset (s : State) : Result := .next s.applyPowerOn

/-- R126: SRST_N goes low. -/
def execStationReset (s : State) : Result := .next s.applyStationReset

/-- R113: the reset conditions once one of them is released. -/
def Stc.release (c : Stc) : ResetSource → Stc
  | .supply => { c with porApplied := false }
  | .srstN => { c with srstApplied := false }

/-- Whether a reset is applied by this source. -/
def Stc.applies (c : Stc) : ResetSource → Bool
  | .supply => c.porApplied
  | .srstN => c.srstApplied

/-- R113: with no reset applied any longer, the start-up delay starts in full. -/
def Stc.startDelay (c : Stc) : Stc :=
  if c.porApplied || c.srstApplied then c else { c with startUpDelay := .running Config.startUpDelayMs }

/-- R113: a reset is released. -/
def execResetRelease (source : ResetSource) (s : State) : Result :=
  if s.stc.station = .start ∧ s.stc.applies source = true then
    .next (s.setStc (s.stc.release source).startDelay)
  else .next s

/-! ### The end of START (R114) -/

/-- R114 step 2: the cause of the reset record. -/
def StartKind.cause : StartKind → Cause
  | .powerOn => .powerOn
  | .stationReset => .stnReset

/-- R82: the band evaluated from LOW. -/
def bandAtStart (senseMv : Nat) : Band := if Config.senseNormalMv < senseMv then .normal else .low

/-- R114 steps 1 to 6, the straps already sampled. -/
def State.leaveStart (s : State) (pins : SampledPins) : State :=
  let s1 := s.append s.stc.startKind.cause none (some s.self) none
  let s2 := s1.putBsu { s1.bsu with fltLatch := pins.fltN, band := bandAtStart pins.senseMv,
                                    holdDown := .running (holdDownInterval s.profile) }
  (s2.setLif { Lif.reset with lineDominant := pins.lineDominant }).setStc
    { s1.stc with station := .listen, startUpDelay := .stopped, msPhase := 0,
                  listenIn := .running (listenInterval s.profile) }

/-- R114: the start-up delay expires. -/
def execStartUpDelayExpiry (pins : SampledPins) (s : State) : Result :=
  if s.stc.station = .start ∧ s.stc.startUpDelay.isRunning = true then
    .next ((s.setStc { s.stc with straps := readStraps pins.straps }).leaveStart pins)
  else .next s

/-! ### LISTEN and ISOLATED (R118, R121) -/

/-- R118: the listen-in timer expires: founding. -/
def execListenInExpiry (s : State) : Result :=
  if s.stc.station = .listen ∧ s.stc.listenIn.isRunning = true then .next s.found else .next s

/-- R121, R93, R116: the quiet timer expires. -/
def execQuietTimerExpiry (s : State) : Result :=
  if s.stc.station = .isolated ∧ s.stc.quiet.isRunning = true then
    .next (s.setStc { s.stc with station := .listen, quiet := .stopped,
                                 listenIn := .running (listenInterval s.profile) }).holdRunning
  else .next s

end Sys2Proof.Machine
end

