-- ==== Sys2Proof/Machine/LineEvents.lean ====
section
/-!
DEFINITION. The events of the coordination line (chapter 8): attempts and their outcomes, dominant runs, breaks, the
stuck line and reception errors. Line times are in half bit times.
-/

namespace Sys2Proof.Machine

/-- R156: outside START the line is received and runs are measured. -/
def State.receiving (s : State) : Bool := s.stc.station != .start

/-! ### The limits of a dominant run (R152, R155) -/

/-- R121: a run past 9 T stops the quiet timer of an isolated station. -/
def State.stopQuiet (s : State) : State :=
  if s.stc.station = .isolated then s.setStc { s.stc with quiet := .stopped } else s

/-- R152, R150, R147, R121: a run passes 9 T: an attempt still sending, or whose mismatch awaits its class, is cut and its
frame is no reception error; any other frame in reception is discarded and counted; the quiet timer stops. -/
def State.passLong (s : State) : State :=
  let s1 := s.setLif { s.lif with runClass := .long, runLength := max s.lif.runLength (Config.longHalves + 1) }
  let s2 := if s.lif.attempting then s1.exemptFrame.endAttempt else s1
  s2.discardFrame.stopQuiet

/-- R152: a dominant run passes 9 T. -/
def execLongRunStart (s : State) : Result :=
  if s.receiving = true ∧ s.lif.lineDominant = true ∧ s.lif.runClass = .ordinary then .next s.passLong else .next s

/-- R155: the trigger a stuck line reports, in LISTEN and MEMBER only. -/
def State.stuckTrigger (s : State) : State :=
  match s.stc.station with
  | .listen | .member => s.enterIsolated false
  | .start | .isolated | .blocked => s

/-- R155: the run reaches 4096 T; a run that has not been told long is told so first. -/
def State.passStuck (s : State) : State :=
  let s1 := if s.lif.runClass = .ordinary then s.passLong else s
  (s1.setLif { s1.lif with runClass := .stuck, runLength := Config.stuckHalves }).stuckTrigger

/-- R155: a dominant run reaches 4096 T. -/
def execStuckLine (s : State) : Result :=
  if s.receiving = true ∧ s.lif.lineDominant = true ∧ s.lif.runClass ≠ .stuck then .next s.passStuck else .next s

/-- R152, R155: a run that has come to one of its two limits has had the limit's effects, before anything its end does:
those not yet made are made now. -/
def State.reachLimits (s : State) : State :=
  if Config.stuckHalves ≤ s.lif.runLength then
    if s.lif.runClass = .stuck then s else s.passStuck
  else if Config.longHalves < s.lif.runLength ∧ s.lif.runClass = .ordinary then s.passLong
  else s

/-- R152, R155: the limits that the run in progress has come to are told. -/
def State.tellLimits (s : State) : State := if s.receiving && s.lif.lineDominant then s.reachLimits else s

/-! ### Attempts (R144 to R149) -/

/-- R144, R143, R146: the boundary condition: a bit boundary at an idle count of 12 T or more, the line recessive, in a gap
in which no attempt has begun yet. -/
def Lif.atBoundary (l : Lif) : Bool :=
  !l.lineDominant && !l.gapTaken && decide (Config.gapHalves ≤ l.idle) && l.idle % 2 == 0

/-- R144: an attempt may begin now: nothing is being driven, no attempt awaits its outcome, and the boundary has come or
the edge may be joined. -/
def Lif.mayBegin (l : Lif) : Bool := (l.drive == .none) && !l.mismatch && (l.atBoundary || l.joinWindow)

/-- R144, R130, R131: the offered entry goes in flight and its frame is fixed. The gap is taken (R146). -/
def State.beginAttempt (s : State) (e : Entry) : State :=
  (s.setTxq { s.txq with inFlight := some e.key, remembered := none }).setLif
    { s.lif with drive := .frame (s.frameOf e) 0, joinWindow := false, gapTaken := true }

/-- R144: the transmission start of an attempt. -/
def execAttemptStart (s : State) : Result :=
  match s.offered with
  | some e => if s.lif.mayBegin then .next (s.beginAttempt e) else .next s
  | none => .next s

/-- R145: arbitration is lost; the station stays a receiver. -/
def State.loseArbitration (s : State) : State := if s.lif.drive.isFrame then s.endAttempt else s

/-- R145, R152: a recessive bit of character 1 reads dominant. A run that has passed 9 T by then has already cut the attempt:
the stop bit of a first character 0x00 is sampled at 9.5 T. -/
def execLostArbitration (s : State) : Result := .next s.tellLimits.loseArbitration

/-- R147: the consecutive-collision count, at most 2. -/
def bumpCollisions (n : Fin 3) : Fin 3 := if h : n.val + 1 < 3 then ⟨n.val + 1, h⟩ else 2

/-- R147: the attempt has collided: the count increases, and at 2 a duplicate identity is declared. -/
def State.collide (s : State) : State :=
  let s1 := s.endAttempt
  let s2 := s1.setLif { s1.lif with collisions := bumpCollisions s1.lif.collisions }
  if s2.lif.collisions.val = Config.collisionLimit ∧ s.isMember = true then s2.enterBlocked else s2

/-- R147: a mismatch after character 1 whose run has ended, at 9 T or less (a longer run has cut the attempt). -/
def Lif.collisionDue (l : Lif) : Bool := l.mismatch && !l.lineDominant

/-- R147: a collision that the end of its run has settled, if it is still to be reported, is reported. -/
def State.settleCollision (s : State) : State := if s.receiving && s.lif.collisionDue then s.collide else s

/-- R147: a collision after arbitration; a run past 9 T is none. -/
def execCollisionAfterArbitration (s : State) : Result :=
  if s.lif.attempting = true ∧ s.lif.runClass = .ordinary ∧ s.lif.runLength ≤ Config.longHalves then
    .next s.collide
  else .next s

/-- R149: the consecutive-drive-fault count, at most 3. -/
def bumpDriveFaults (n : Fin 4) : Fin 4 := if h : n.val + 1 < 4 then ⟨n.val + 1, h⟩ else 3

/-- R153: the station releases the line. -/
def State.releaseBreak (s : State) : State := s.setLif { s.lif with drive := .none }

/-- R149, R150, R153: the drive stops: an attempt ends, and the frame it leaves is not recorded against its sender; a break
ends. -/
def State.stopFaulty (s : State) : State :=
  let s1 := if s.lif.drive.isFrame then s.exemptFrame.endAttempt else s.releaseBreak
  s1.setLif { s1.lif with driveFaults := bumpDriveFaults s1.lif.driveFaults }

/-- R149, R120: what a drive-fault count of 3 does, by station state. -/
def State.driveTrigger (s : State) : State :=
  match s.stc.station with
  | .listen | .member => s.enterIsolated true
  | .start | .isolated | .blocked => s.setLif { s.lif with driveFaults := 0 }

/-- R149: a drive fault in an attempt or a break. -/
def State.failDrive (s : State) : State :=
  if s.lif.drive = .none then s
  else if s.stopFaulty.lif.driveFaults.val = Config.driveFaultLimit then s.stopFaulty.driveTrigger
  else s.stopFaulty

/-- R149, R152: a dominant bit reads recessive. A run that has passed 9 T by then has already cut the attempt. -/
def execDriveFault (s : State) : Result := .next s.tellLimits.failDrive

/-- R153: 32 T of break drive are over. -/
def execBreakDriveEnd (s : State) : Result :=
  if s.lif.drive.isBreak = true then .next s.releaseBreak else .next s

/-- R153: the break has been driven for 32 T. -/
def Lif.breakDue (l : Lif) : Bool :=
  match l.drive with
  | .brk elapsed => decide (Config.breakDriveHalves ≤ elapsed)
  | _ => false

/-- R153: a break whose 32 T are over is driven no more. -/
def State.settleBreak (s : State) : State := if s.lif.breakDue then s.releaseBreak else s

/-! ### Dominant runs (R141, R152 to R155) -/

/-- R141: a falling edge opens a frame at an idle count of at least 11.5 T, unless it is the station's own break
(R150). -/
def Lif.opensFrame (l : Lif) : Bool :=
  l.receive == .outside && decide (Config.openHalves ≤ l.idle) && !l.drive.isBreak

/-- R141: the frame opened by an edge, in its first start bit. -/
def Reception.opened : Reception := ⟨[], some 0, 0, 0, false⟩

/-- R141: a falling edge between two characters of a frame begins the next one. -/
def Reception.nextEdge (r : Reception) : Reception :=
  match r.phase with
  | none => { r with phase := some 0 }
  | some _ => r

/-- R141: the receive state after a falling edge. -/
def Lif.receiveAtEdge (l : Lif) : Receive :=
  match l.receive with
  | .inFrame r => .inFrame r.nextEdge
  | .outside => if l.opensFrame then .inFrame Reception.opened else .outside

/-- R144, R146: the edge falls within the half bit before a boundary at which the station would begin. -/
def State.edgeJoins (s : State) : Bool :=
  s.offered.isSome && s.lif.drive == .none && !s.lif.gapTaken && decide (Config.openHalves ≤ s.lif.idle) &&
    s.lif.idle % 2 == 1

/-- R141, R143, R152: the falling edge: a run begins. -/
def State.beginRun (s : State) : State :=
  s.setLif { s.lif.restartIdle with lineDominant := true, runLength := 0, runClass := .ordinary,
                                    receive := s.lif.receiveAtEdge, joinWindow := s.edgeJoins }

/-- R152, R143: the run has ended: the line is recessive, the idle count starts from 0. -/
def State.endRun (s : State) : State :=
  s.setLif { s.lif.restartIdle with lineDominant := false, runLength := 0, runClass := .ordinary, joinWindow := false }

/-- R121: the end of a long run, whatever its length, starts the quiet timer of an isolated station. -/
def State.restartQuiet (s : State) : State :=
  if s.stc.station = .isolated then s.setStc { s.stc with quiet := .running (quietInterval s.profile) } else s

/-- R154: what the end of a line break does, by station state. -/
def State.breakEnd (s : State) : State :=
  match s.stc.station with
  | .member => s.breakRewind
  | .listen => s.setStc { s.stc with listenIn := .running (listenInterval s.profile) }
  | .start | .isolated | .blocked => s

/-- R147, R152, R153, R155: what has come about on the line and is still to be told takes effect: the limits of the run
in progress, a collision that the end of its run has settled, the end of a break. -/
def State.settleLine (s : State) : State := s.tellLimits.settleCollision.settleBreak

/-- R141, R143, R152: the line goes dominant and a run begins. -/
def execDominantRunStart (s : State) : Result :=
  if s.receiving = true ∧ s.lif.lineDominant = false then .next s.settleLine.beginRun else .next s

/-- R147, R152, R154, R155: what the end of a run does by its length. A mismatch in a run of 9 T or less is a collision,
reported at the run's end. -/
def State.classifyRun (s : State) : State :=
  if s.lif.runLength ≤ Config.longHalves then s.endRun.settleCollision
  else if s.lif.runLength < Config.breakHalves then s.endRun.restartQuiet
  else if s.lif.runLength < Config.stuckHalves then s.endRun.restartQuiet.breakEnd
  else s.endRun.restartQuiet

/-- R152, R154, R155: the run ends and is classified. -/
def execDominantRunEnd (s : State) : Result :=
  if s.receiving = true ∧ s.lif.lineDominant = true then .next s.reachLimits.classifyRun else .next s

/-! ### Reception errors (R150, R151) -/

/-- R150: a sender whose attempt has not ended finds no error in its own frame. One that has met a mismatch drives no
more and is a receiver (R147). In START nothing is received (R156). -/
def State.discardReceived (s : State) : State :=
  if s.receiving && !s.lif.drive.isFrame then s.discardFrame else s

/-- R150, R152: a fault found in reception. A run that has passed 9 T by then has already cut the attempt or discarded the
frame. -/
def State.receptionFault (s : State) : State := s.tellLimits.discardReceived

/-- R150: a truncation. -/
def execTruncation (s : State) : Result := .next s.receptionFault

/-- R150: a framing error, a bad CRC or an invalid field: the effect is the same for the three. -/
def execReceptionError (_kind : RxError) (s : State) : Result := .next s.receptionFault

end Sys2Proof.Machine
end

