-- ==== Sys2Proof/Machine/Arrivals.lean ====
section
/-!
DEFINITION. Arrivals (R136, R137): what every arrival does, then the rule of each class: ANNOUNCE (R14 to R17, R23),
ADVANCE (R33), the two lapses (R21, R43), FAULT (R53), HOLD and RESUME (R98, R99), READY (R18), QUERY (R172) and REPLY
(R174).
-/

namespace Sys2Proof.Machine

/-! ### What every arrival does -/

/-- R137: the station itself has driven this frame from its first start bit: it is the frame of its attempt in flight,
which a readback mismatch would have ended (R145, R147). -/
def Lif.drove (l : Lif) (f : Frame) : Bool :=
  match l.drive with
  | .frame g _ => g == f
  | _ => false

/-- R141, R143: a completed frame leaves the receiver outside any frame and restarts the idle count. -/
def State.frameDone (s : State) : State := s.setLif { s.lif.restartIdle with receive := .outside }

/-- R13: a valid frame from a present sender resets its silence age. -/
def State.hear (s : State) (i : StationId) : State :=
  s.updateRecord i (fun r => if r.present then { r with silence := 0 } else r)

/-- R137, R146: at the own arrival the entry that was in flight is removed and the two consecutive counts are
cleared. -/
def State.ownDone (s : State) : State :=
  (s.setTxq s.txq.arrived).setLif { s.lif with drive := .none, collisions := 0, driveFaults := 0 }

/-- R162: the key of the own entry that an arrival of this class cancels, beside the sender's MEMBER-SILENT lapse. -/
def cancelledKey : Body → Option Key
  | .advance _ _ => some .advance
  | .rankTimeout k => some (.rankTimeout k)
  | .memberSilent t => some (.memberSilent t)
  | _ => none

/-- R162: the cancellations an arrival makes in step 2 of R136. -/
def State.cancelFor (s : State) (f : Frame) : State :=
  let s1 := s.cancel (.memberSilent f.sender)
  match cancelledKey f.body with
  | some k => s1.cancel k
  | none => s1

/-- R53: the rank an applied FAULT rewinds to; none for a LOCAL one. A START opens a gather from 0 whatever it holds. -/
def faultRewind (f : FaultFields) : Option Rank :=
  if f.cause = .start then some 0
  else match f.scope with
    | .local => none
    | .rank => some f.rewindRank
    | .domain => some 0

/-- R51: the rank the arrival of a frame rewinds to, if it rewinds. -/
def rewindOf : Body → Option Rank
  | .fault f => faultRewind f
  | _ => none

/-- R51, R161: what was remembered beside the arrived entry becomes a new request; after a rewind a FAULT request is
tested for absorption first. -/
def State.applyRemembered (s : State) (rem : Option Remembered) (rewound : Option Rank) : State :=
  match rem with
  | some (.fault g) =>
    match rewound with
    | some b => if faultAbsorbed g b s.rank then s else s.request (.fault g)
    | none => s.request (.fault g)
  | some (.hold a) => s.request (.hold a)
  | _ => s

/-- R136: an arrival at a MEMBER that is applied: silence age, own removal and cancellations, the class's rule, the
remembered request; the advance condition is evaluated where a term has changed (R31). -/
def State.applyArrival (s : State) (f : Frame) (own : Bool) (rule : State → State) : State :=
  let heard := s.hear f.sender
  let removed := if own then heard.ownDone else heard
  let ruled := (rule (removed.cancelFor f)).settleTerms s.dvu
  if own then ruled.applyRemembered s.txq.remembered (rewindOf f.body) else ruled

/-- R23: the front of an equal-epoch ANNOUNCE is at or above the kept front. -/
def frontAtLeast (f g : Front) : Bool := decide (frontValue g ≤ frontValue f)

/-- R23, R116: whether an ANNOUNCE may be adopted in LISTEN. -/
def State.adoptable (s : State) (sender : StationId) (epoch : Epoch) (a : AnnounceFields) : Bool :=
  sender != s.self &&
    match s.judge sender epoch with
    | .newer => true
    | .equal => frontAtLeast a.front s.dvu.front
    | .older => false

/-- R116, R117: an arrival in LISTEN: an adoptable ANNOUNCE alone is applied. -/
def State.listenArrival (s : State) (f : Frame) : State :=
  match f.body with
  | .announce a => if s.adoptable f.sender f.epoch a then s.adopt f.sender f.epoch a else s
  | _ => s

/-- R136, R137, R148: the arrival of a valid frame, by station state. A frame with the own ID that the station did not
drive to the end declares a duplicate identity at a MEMBER. -/
def State.takeArrival (s : State) (f : Frame) (rule : State → State) : State :=
  let done := s.frameDone
  match s.stc.station with
  | .start => s
  | .listen => done.listenArrival f
  | .isolated | .blocked => done
  | .member =>
    if s.lif.drove f then done.applyArrival f true rule
    else if f.sender = s.self then done.enterBlocked
    else done.applyArrival f false rule

/-- The arrival of a valid frame. One other than the own one cannot arrive while the station is sending (R160); nothing
happens then (log entry 4). A station that has met a mismatch sends no more (R147). -/
def State.arriveValid (s : State) (f : Frame) (rule : State → State) : State :=
  if s.lif.drive.isFrame && !s.lif.drove f then s else s.takeArrival f rule

/-- The arrival of a frame. An invalid frame is discarded as a reception error (R134, R135). A collision that the end of
its run has settled is reported before a valid one arrives (R147). -/
def State.arrive (s : State) (f : Frame) (rule : State → State) : State :=
  if frameValid f = false then s.receptionFault else s.settleCollision.arriveValid f rule

/-! ### ANNOUNCE (R14 to R17) -/

/-- R14, R15: an equal-epoch ANNOUNCE. -/
def State.announceEqual (s : State) (sender : StationId) (a : AnnounceFields) : State :=
  ((s.applyAnnounce sender a).reconcile sender a.holding).viewCheck sender a

/-- R17: presence and reported fields of the sender's record refreshed. The own record is not written (R9). -/
def State.refresh (s : State) (sender : StationId) (a : AnnounceFields) : State :=
  s.updateRecord sender (fun r =>
    let r := r.joinIfAbsent s.dvu.epoch
    if sender = s.self then r else r.refreshed a)

/-- The four rules of 1.6, chosen by epoch and gather flags. -/
def State.announceRule (sender : StationId) (epoch : Epoch) (a : AnnounceFields) (s : State) : State :=
  match s.judge sender epoch with
  | .equal => s.announceEqual sender a
  | .newer => if !a.gather || s.dvu.gather then s.catchUp sender epoch a else s.refresh sender a
  | .older => (s.refresh sender a).request .announce

/-- R14 to R17, R23, R24: an ANNOUNCE arrives. -/
def execAnnounceArrival (sender : StationId) (epoch : Epoch) (fields : AnnounceFields) (s : State) : Result :=
  .next (s.arrive ⟨sender, epoch, .announce fields⟩ (State.announceRule sender epoch fields))

/-! ### ADVANCE (R33, R34) -/

/-- R33: whether an ADVANCE is accepted. -/
def State.acceptsAdvance (s : State) (sender : StationId) (epoch : Epoch) (old new : Front) : Bool :=
  s.judge sender epoch == .equal && s.holdClear && old == s.dvu.front && decide (frontValue old < frontValue new)

/-- R33 steps 1 to 3: the view at an accepted ADVANCE. -/
def Dvu.advanceTo (d : Dvu) (new : Front) (p : Profile) : Dvu :=
  ({ d with front := new, gather := false, gatherTimer := .stopped } : Dvu).startSettle p

/-- R33, R34, R35: the rule of ADVANCE; the advance condition is evaluated afresh whether it is accepted or not. -/
def State.advanceRule (sender : StationId) (epoch : Epoch) (old new : Front) (s : State) : State :=
  if s.acceptsAdvance sender epoch old new then
    ((s.setDvu (s.dvu.advanceTo new s.profile)).evalRelease).evalAdvance
  else s.evalAdvance

/-- R33, R34: an ADVANCE arrives. -/
def execAdvanceArrival (sender : StationId) (epoch : Epoch) (old new : Front) (s : State) : Result :=
  .next (s.arrive ⟨sender, epoch, .advance old new⟩ (State.advanceRule sender epoch old new))

/-! ### LAPSE (R21, R22, R43) -/

/-- R43: the records at an accepted rank timeout: every blocking one is late. -/
def Dvu.markLate (d : Dvu) : Dvu :=
  { d with records := mapTable (fun _ r => if r.blocking d.front then { r with late := true } else r) d.records }

/-- R43: the rule of LAPSE(RANK-TIMEOUT). -/
def State.rankTimeoutRule (sender : StationId) (epoch : Epoch) (k : Rank) (s : State) : State :=
  if s.judge sender epoch = .equal ∧ s.dvu.front = .rank k then
    (s.setDvu (s.dvu.markLate.startSettle s.profile)).evalAdvance
  else s

/-- R43: a LAPSE(RANK-TIMEOUT) arrives. -/
def execRankTimeoutArrival (sender : StationId) (epoch : Epoch) (subject : Rank) (s : State) : Result :=
  .next (s.arrive ⟨sender, epoch, .rankTimeout subject⟩ (State.rankTimeoutRule sender epoch subject))

/-- R8, R21: a member's record becomes absent and its ID leaves the hold set. -/
def State.removeMember (s : State) (i : StationId) : State :=
  if (s.record i).present then (s.updateRecord i Record.leave).removeHold i else s

/-- R21, R22: the rule of LAPSE(MEMBER-SILENT). -/
def State.memberSilentRule (sender : StationId) (epoch : Epoch) (subject : StationId) (s : State) : State :=
  if s.judge sender epoch = .equal then
    if subject = s.self then s.request .announce else s.removeMember subject
  else s

/-- R21, R22: a LAPSE(MEMBER-SILENT) arrives. -/
def execMemberSilentArrival (sender : StationId) (epoch : Epoch) (subject : StationId) (s : State) : Result :=
  .next (s.arrive ⟨sender, epoch, .memberSilent subject⟩ (State.memberSilentRule sender epoch subject))

/-! ### FAULT (R53 to R61) -/

/-- R54: a LOCAL FAULT marks the present record of another station. -/
def State.markLocal (s : State) (sender : StationId) (rank : Rank) : State :=
  if sender = s.self then s
  else s.updateRecord sender (fun r =>
    if r.present then { r with rank := rank, board := .recover, ready := false } else r)

/-- R59: the record of a rewind, appended by every station but the sender. -/
def State.rewindRecord (s : State) (sender : StationId) (f : FaultFields) : Option (Option Scope × Option StationId) :=
  if sender = s.self then none else some (some f.scope, some sender)

/-- R53: an applied FAULT. -/
def State.applyFault (s : State) (sender : StationId) (f : FaultFields) : State :=
  match faultRewind f with
  | some b => s.rewind b f.cause (s.rewindRecord sender f)
  | none => (s.markLocal sender f.senderRank).evalAdvance

/-- R53: the rule of FAULT. -/
def State.faultRule (sender : StationId) (epoch : Epoch) (f : FaultFields) (s : State) : State :=
  match s.judge sender epoch with
  | .equal => s.applyFault sender f
  | .older => s.request .announce
  | .newer => s

/-- R53: a FAULT arrives. -/
def execFaultArrival (sender : StationId) (epoch : Epoch) (fields : FaultFields) (s : State) : Result :=
  .next (s.arrive ⟨sender, epoch, .fault fields⟩ (State.faultRule sender epoch fields))

/-! ### HOLD and RESUME (R98, R99) -/

/-- R98, R100: the hold limit timer at the own HOLD. -/
def State.startHoldLimit (s : State) (sender : StationId) : State :=
  if sender = s.self then
    s.setDvu { s.dvu with holdLimit := .running (holdLimitInterval s.profile) }
  else s

/-- R98: the rule of HOLD: ignored from an absent sender, whatever the epoch. -/
def State.holdRule (sender : StationId) (s : State) : State :=
  if (s.record sender).present then (s.addHold sender).startHoldLimit sender else s

/-- R98: a HOLD with action HOLD arrives. -/
def execHoldArrival (sender : StationId) (epoch : Epoch) (s : State) : Result :=
  .next (s.arrive ⟨sender, epoch, .hold .hold⟩ (State.holdRule sender))

/-- R99: the hold limit timer at the own RESUME. -/
def State.stopHoldLimit (s : State) (sender : StationId) : State :=
  if sender = s.self then s.setDvu { s.dvu with holdLimit := .stopped } else s

/-- R99: the rule of RESUME. -/
def State.resumeRule (sender : StationId) (s : State) : State := (s.removeHold sender).stopHoldLimit sender

/-- R99: a HOLD with action RESUME arrives. -/
def execResumeArrival (sender : StationId) (epoch : Epoch) (s : State) : Result :=
  .next (s.arrive ⟨sender, epoch, .hold .resume⟩ (State.resumeRule sender))

/-! ### READY (R18) -/

/-- R18: the record of a present sender at an applied READY; at the own one only ready and late are touched (R10). -/
def Record.readied (r : Record) (own : Bool) (rank : Rank) (board : BoardState) : Record :=
  if r.present then
    if own then { r with ready := r.ready || board == .ready, late := false }
    else { r with rank := rank, board := .ready, ready := true, late := false }
  else r

/-- R18: the rule of READY. -/
def State.readyRule (sender : StationId) (epoch : Epoch) (rank : Rank) (s : State) : State :=
  if s.judge sender epoch = .equal then
    s.updateRecord sender (fun r => r.readied (sender == s.self) rank s.bsu.board)
  else s

/-- R18: a READY arrives. -/
def execReadyArrival (sender : StationId) (epoch : Epoch) (senderRank : Rank) (s : State) : Result :=
  .next (s.arrive ⟨sender, epoch, .ready senderRank⟩ (State.readyRule sender epoch senderRank))

/-! ### QUERY and REPLY (R169, R172 to R174) -/

/-- R169: reply status and data for an item, from the station's state at this moment. -/
def State.answer (s : State) : Item → ReplyStatus × Byte × Byte
  | .status =>
    (.ok, boardCode s.bsu.board ++ budgetCode s.bsu.budget ++ stationCode s.stc.station,
      s.lif.rxErrors.extractLsb' 0 8)
  | .logSummary =>
    (.ok, BitVec.ofNat 8 s.clg.records.length,
      match s.clg.records with
      | [] => 0#8
      | r :: _ => 0#4 ++ causeCode r.cause)
  | .lastFault =>
    match s.qru.lastFault with
    | some l => (.ok, causeCode l.cause ++ scopeCode l.scope ++ 0#2, l.epoch)
    | none => (.noData, 0#8, 0#8)

/-- R172: the REPLY that answers a QUERY. -/
def State.replyTo (s : State) (sender : StationId) (item : Item) (tag : Tag) : Entry :=
  .reply ⟨sender, item, tag, (s.answer item).1, (s.answer item).2.1, (s.answer item).2.2⟩

/-- R173: at the own arrival of its QUERY, the timer of the slot the tag names starts. -/
def Slot.startTimer (sl : Slot) (gen : Fin 4) (p : Profile) : Slot :=
  if sl.state = .waiting ∧ sl.gen = gen then { sl with timer := .running (queryTimeout p) } else sl

/-- R172, R173: the rule of QUERY. -/
def State.queryRule (sender target : StationId) (item : Item) (tag : Tag) (s : State) : State :=
  let s1 := if sender = s.self then s.updateSlot tag.slot (fun sl => sl.startTimer tag.gen s.profile) else s
  if target = s.self then s1.request (s.replyTo sender item tag) else s1

/-- R172, R173: a QUERY arrives. -/
def execQueryArrival (sender : StationId) (epoch : Epoch) (target : StationId) (item : Item) (tag : Tag) (s : State) :
    Result :=
  .next (s.arrive ⟨sender, epoch, .query target item tag⟩ (State.queryRule sender target item tag))

/-- R174: whether a REPLY matches. -/
def State.replyMatches (s : State) (sender : StationId) (r : ReplyFields) : Bool :=
  let sl := s.qru.slots[r.tag.slot]
  r.requester == s.self && sl.state == .waiting && sl.gen == r.tag.gen && sender == sl.target

/-- R174: a matched slot. -/
def Slot.finish (sl : Slot) (r : ReplyFields) : Slot :=
  { sl with state := .done, outcome := .ok, status := r.status, data1 := r.data1, data2 := r.data2, timer := .stopped }

/-- R174: the rule of REPLY; a QUERY still pending for the slot is cancelled. -/
def State.replyRule (sender : StationId) (r : ReplyFields) (s : State) : State :=
  if s.replyMatches sender r then (s.updateSlot r.tag.slot (fun sl => sl.finish r)).cancel (.query r.tag.slot) else s

/-- R174: a REPLY arrives. -/
def execReplyArrival (sender : StationId) (epoch : Epoch) (fields : ReplyFields) (s : State) : Result :=
  .next (s.arrive ⟨sender, epoch, .reply fields⟩ (State.replyRule sender fields))

/-- R175: an expired query. -/
def Slot.expire (sl : Slot) : Slot :=
  { sl with state := .done, outcome := .noAnswer, status := .ok, data1 := 0, data2 := 0, timer := .stopped }

/-- R175: a slot's query timer expires. -/
def execQueryTimerExpiry (slot : SlotIx) (s : State) : Result :=
  if s.qru.slots[slot].state = .waiting ∧ s.qru.slots[slot].timer.isRunning = true then
    .next (s.updateSlot slot Slot.expire)
  else .next s

end Sys2Proof.Machine
end

