-- ==== Sys2Proof/Machine/BoardEvents.lean ====
section
/-!
DEFINITION. The board's timers and pins (chapter 4): hold-down, recovery, watchdog, stable interval, BRDY, KICK, FLT_N,
the supply band, and EMRG_N (R95).
-/

namespace Sys2Proof.Machine

/-- R70: the board inputs are observed from the end of START on. -/
def State.observing (s : State) : Bool := s.stc.station != .start

/-! ### Timers -/

/-- R72: the hold-down expires and the release condition is evaluated. -/
def execHoldDownExpiry (s : State) : Result :=
  if s.bsu.holdDown.isRunning = true then
    .next ((s.setBsu { s.bsu with holdDown := .expired }).evalRelease.settleTerms s.dvu)
  else .next s

/-- R87: the recovery interval ends. -/
def execRecoveryExpiry (s : State) : Result :=
  if s.bsu.board = .recover ∧ s.bsu.recovery.isRunning = true then
    .next ((s.setBsu { s.bsu with board := .held, recovery := .stopped }).evalRelease.settleTerms s.dvu)
  else .next s

/-- R79: the watchdog expires in FIRST or RUNNING. -/
def execWatchdogExpiry (s : State) : Result :=
  if s.bsu.watchdog.isArmed = true then .next (s.strapFault .wdog) else .next s

/-- R88: the stable interval expires. -/
def execStableIntervalExpiry (s : State) : Result :=
  if s.bsu.stable.isRunning = true then .next (s.setBsu { s.bsu with stable := .stopped, budget := 0 }) else .next s

/-! ### BRDY (R74, R75) -/

/-- R74: BRDY rises in RUNUP. -/
def execBrdyRise (s : State) : Result :=
  if s.bsu.board = .runup then
    .next (((s.setBsu { s.bsu with board := .ready, stable := .running (stableInterval s.profile) }).request
      (.ready s.rank)).settleTerms s.dvu)
  else .next s

/-- R75: BRDY falls in READY. -/
def execBrdyFall (s : State) : Result :=
  if s.bsu.board = .ready then
    .next (((s.setBsu { s.bsu with board := .runup, stable := .stopped }).cancel .ready).settleTerms s.dvu)
  else .next s

/-! ### KICK (R78) -/

/-- R78: KICK rises. -/
def execKick (s : State) : Result :=
  if s.bsu.watchdog.isArmed = true then
    .next (s.putBsu { s.bsu with watchdog := .running (watchdogPeriod s.profile) })
  else .next s

/-! ### FLT_N (R80, R81) -/

/-- R80, R81: FLT_N falls: the latch goes low, and a running board has a BOARDFLT, in either mode. -/
def execFltNFall (s : State) : Result :=
  if s.observing = true ∧ s.bsu.fltLatch = .high then
    .next ((s.putBsu { s.bsu with fltLatch := .low }).strapFault .boardFlt)
  else .next s

/-- R80, R81: FLT_N rises: the latch goes high; in LEVEL mode the release condition is evaluated. -/
def execFltNRise (s : State) : Result :=
  if s.observing = true ∧ s.bsu.fltLatch = .low then
    let s1 := s.putBsu { s.bsu with fltLatch := .high }
    .next (if s.stc.straps.fltMode = .high then s1.evalRelease.settleTerms s.dvu else s1)
  else .next s

/-! ### The supply band (R82, R83) -/

/-- R83: the band enters LOW. -/
def execSupplyBandLow (s : State) : Result :=
  if s.observing = true ∧ s.bsu.band = .normal then
    .next ((s.putBsu { s.bsu with band := .low }).strapFault .supply)
  else .next s

/-- R82: the band enters NORMAL. -/
def execSupplyBandNormal (s : State) : Result :=
  if s.observing = true ∧ s.bsu.band = .low then
    .next ((s.putBsu { s.bsu with band := .normal }).evalRelease.settleTerms s.dvu)
  else .next s

/-! ### EMRG_N (R95, R153) -/

/-- R95, R180: the emission record. -/
def State.recordEmergency (s : State) : State := s.append .emrg none (some s.self) none

/-- R153, R150: whatever is driven stops, an attempt being sent as cut, and the break begins. The frame that attempt leaves
is not recorded against its sender. A mismatch that awaits its class goes on awaiting it (R147). -/
def State.startBreak (s : State) : State :=
  let s1 := if s.lif.drive.isFrame then s.exemptFrame.endAttempt else s
  s1.setLif { s1.lif with drive := .brk 0, joinWindow := false }

/-- R95: what a fall of EMRG_N does, by station state; while the station's own break is being driven it is ignored. -/
def State.emergency (s : State) : State :=
  if s.lif.drive.isBreak then s
  else match s.stc.station with
    | .start => s
    | .isolated => s.recordEmergency
    | .listen | .member | .blocked => s.recordEmergency.startBreak

/-- R95, R153: EMRG_N falls. What has come about on the line before the edge takes effect first: a collision is no cut,
and a break whose 32 T are over is not being driven. In START no edge is observed. -/
def execEmrgNFall (s : State) : Result := if s.observing = true then .next s.settleLine.emergency else .next s

end Sys2Proof.Machine
end

