-- ==== Sys2Proof/Machine/DomainTimers.lean ====
section
/-!
DEFINITION. The expiries of the view's timers: announce (R11, R19, R20, R100), gather (R36), rank settle (R41) and hold
limit (R100).
-/

namespace Sys2Proof.Machine

/-! ### The announce timer -/

/-- R19: one more period of silence, up to the limit. -/
def ageOf (n : Fin 5) : Fin 5 := if h : n.val + 1 < 5 then ⟨n.val + 1, h⟩ else 4

/-- R19: every present record but the own ages. -/
def State.ageRecords (s : State) : State :=
  s.setRecords (mapTable (fun i r => if r.present ∧ i ≠ s.self then { r with silence := ageOf r.silence } else r)
    s.dvu.records)

/-- R20: the records a MEMBER-SILENT lapse is due for. -/
def State.isSilent (s : State) (i : StationId) : Bool :=
  (s.record i).present && (s.record i).silence.val == Config.silenceLimit && i != s.self

/-- The station IDs in increasing order. -/
def stationIds : List StationId := List.finRange 32

/-- R20, R158: a lapse for every silent record that has none pending, in increasing order of subject. -/
def State.requestLapses (s : State) : State :=
  stationIds.foldl (fun t i =>
    if s.isSilent i && !t.txq.holds (.memberSilent i) then t.request (.memberSilent i) else t) s

/-- R100: an expired hold limit asks again for RESUME while no hold entry is pending. -/
def State.reRequestResume (s : State) : State :=
  if s.dvu.holdLimit = .expired ∧ s.txq.holds .hold = false then s.request (.hold .resume) else s

/-- R11, R19, R20, R31, R100: the announce timer expires. -/
def execAnnounceTimerExpiry (s : State) : Result :=
  if s.isMember = true ∧ s.dvu.announce.isRunning = true then
    let s1 := (s.setDvu { s.dvu with announce := .running (announcePeriod s.profile) }).request .announce
    .next ((s1.ageRecords.requestLapses).reRequestResume).evalAdvance
  else .next s

/-! ### The gather timer -/

/-- R36, R6: the gather timer expires. -/
def execGatherTimerExpiry (s : State) : Result :=
  if s.isMember = true ∧ s.dvu.gatherTimer.isRunning = true then
    .next (s.setDvu { s.dvu with gatherTimer := .stopped, gatherExpired := true }).evalAdvance
  else .next s

/-! ### The rank settle timer -/

/-- R41: a LATE record and the FAULT(LATE) request. -/
def State.raiseLate (s : State) (b : Rank) : State :=
  (s.append .late (some (scopeOfRewind b)) (some s.self) (some b)).request
    (.fault ⟨.late, scopeOfRewind b, s.rank, b⟩)

/-- R41: what the expiry asks for while a record blocks. -/
def State.settleAction (s : State) : State :=
  match s.dvu.lowestBlocking, s.dvu.front with
  | some b, .rank k => if s.stc.straps.lateAct = .low then s.request (.rankTimeout k) else s.raiseLate b
  | _, _ => s

/-- R40, R41: the rank settle timer expires; it cannot while paused. -/
def execRankSettleExpiry (s : State) : Result :=
  if s.isMember = true ∧ s.dvu.settle.isRunning = true ∧ s.holdClear = true then
    .next (s.setDvu (s.dvu.startSettle s.profile)).settleAction
  else .next s

/-! ### The hold limit timer -/

/-- R100: the hold limit expires. -/
def execHoldLimitExpiry (s : State) : Result :=
  if s.isMember = true ∧ s.dvu.holdLimit.isRunning = true then
    .next ((s.setDvu { s.dvu with holdLimit := .expired }).request (.hold .resume))
  else .next s

end Sys2Proof.Machine
end

