-- ==== Sys2Proof/Machine/Port.lean ====
section
/-!
DEFINITION. The local port (R138, R139, R185 to R188): transactions, the ten commands with their argument ranges and
responses, and the removals on complete delivery.
-/

namespace Sys2Proof.Machine

/-! ### Status bytes (R139) -/

def statusOk : Byte := 0x00#8
def statusEmpty : Byte := 0x01#8
def statusBusy : Byte := 0x02#8
def statusState : Byte := 0x03#8
def statusRange : Byte := 0x04#8
def statusPending : Byte := 0x05#8

/-- R139: a response of `n` bytes with a status other than OK: every byte after the status is 0xFF. -/
def refusal (status : Byte) (n : Nat) : List Byte := status :: List.replicate (n - 1) 0xFF#8

/-! ### Transactions (R138, R187, R188) -/

/-- R138: a command may be taken: the transaction began outside START and nothing has been taken in it. -/
def Lpt.ready (p : Lpt) : Bool := p.scs == .low && p.observed && !p.taken

/-- R138: the take: the bytes received, the fixed response and what delivery removes. -/
def State.respond (s : State) (received response : List Byte) (mark : Option Mark) : State :=
  s.setLpt { s.lpt with received := received, taken := true, response := response, shifted := 0, mark := mark }

/-- R138, R185: a command is taken outside START in a transaction that awaits one. -/
def State.canTake (s : State) : Bool := s.stc.station != .start && s.lpt.ready

/-- A command carried out at its take, its response fixed there. The port takes what its bytes spell, so that the bytes
of a known command never make an unknown one (log entry 18). -/
def State.take (s : State) (c : Instr) (effect : State → State) (response : List Byte) (mark : Option Mark) : State :=
  if s.canTake ∧ takenCommand (portBytes c) = some c then (effect s).respond (portBytes c) response mark else s

/-- R138: a byte shifted in on SDI, which no row of the table names (log entry 18). Byte 1 picks the command; the byte that
completes it puts it at the front of the queue, to be taken. SDI is ignored from the take on. -/
def State.shiftIn (s : State) (b : Byte) : State :=
  if s.canTake then
    (s.setLpt { s.lpt with received := s.lpt.received ++ [b] }).setPending
      ((takenCommand (s.lpt.received ++ [b])).toList ++ s.pending)
  else s

/-- R138, R188: `n` whole bytes shifted out on SDO, which no row of the table names (log entry 18). From the take on they
are the response's, until none of it is left; bytes clocked after it have no effect. -/
def State.shiftOut (n : Nat) (s : State) : State :=
  if s.lpt.scs = .low ∧ s.lpt.taken = true then
    s.setLpt { s.lpt with shifted := min (s.lpt.shifted + n) s.lpt.response.length }
  else s

/-- R138: SCS_N falls: the bytes received and the take are cleared. -/
def execTransactionStart (s : State) : Result :=
  if s.lpt.scs = .high then .next (s.setLpt { Lpt.reset with scs := .low, observed := s.stc.station != .start })
  else .next s

/-- R176: a delivered slot becomes FREE and keeps its generation. -/
def Slot.release (sl : Slot) : Slot := if sl.state = .done then { sl with state := .free } else sl

/-- R187, R176: the removal that a complete delivery makes. -/
def State.deliver (s : State) : Option Mark → State
  | some (.record seq) =>
    match s.clg.records with
    | r :: _ => if r.seq = seq then s.removeOldest else s
    | [] => s
  | some (.slot i) => s.updateSlot i Slot.release
  | none => s

/-- R187: every response byte has been shifted out. -/
def Lpt.delivered (p : Lpt) : Bool := p.taken && decide (p.response.length ≤ p.shifted)

/-- R187, R188, R176: the transaction ends; the removal is made if the whole response has been shifted out. -/
def State.endTransaction (s : State) : State :=
  let s1 := if s.lpt.delivered then s.deliver s.lpt.mark else s
  s1.setLpt { s1.lpt with scs := .high, observed := false, mark := none }

/-- R187, R188: SCS_N rises after `more` whole bytes beyond those that the port has counted as shifted out. A transaction
that a reset has ended removes nothing (R127). -/
def execTransactionEnd (more : Nat) (s : State) : Result :=
  match s.lpt.scs with
  | .high => .next s
  | .low => .next (s.shiftOut more).endTransaction
  | .cut => .next (s.setLpt { s.lpt with scs := .high })

/-- R138, R188: the byte that SDO carries next: ones before the take and after the response. Throughout START
every bit is a one, in a transaction that the reset has cut as well; outside a transaction SDO is not driven (R113). -/
def State.sdo (s : State) : Option Byte :=
  match s.lpt.scs with
  | .high => none
  | .low => some (if s.lpt.taken then (s.lpt.response[s.lpt.shifted]?).getD 0xFF#8 else 0xFF#8)
  | .cut => if s.stc.station = .start then some 0xFF#8 else none

/-! ### Reports (R186, R187) -/

/-- R186, 7.9: the response of GET-STATUS. -/
def State.statusReport (s : State) : List Byte :=
  [statusOk,
   stationCode s.stc.station ++ boardCode s.bsu.board ++ s.dvu.phaseCode,
   s.dvu.epoch,
   frontCode s.dvu.front ++ 0#1 ++ rankCode s.dvu.base,
   BitVec.ofNat 8 (holdSize s.dvu.holdSet),
   rankCode s.rank ++ idCode s.self,
   flagCode s.dvu.holdSet[s.self] ++ budgetCode s.bsu.budget ++ BitVec.ofNat 5 s.clg.records.length,
   s.lif.rxErrors.extractLsb' 8 8,
   s.lif.rxErrors.extractLsb' 0 8]

/-- R186, 7.9: the response of GET-MEMBER. -/
def Record.report (r : Record) : List Byte :=
  [statusOk,
   flagCode r.present ++ flagCode r.ready ++ flagCode r.late ++ flagCode r.disagree ++ flagCode r.logPending
     ++ rankCode r.rank,
   boardCode r.board ++ budgetCode r.budget ++ BitVec.ofNat 3 r.silence.val,
   r.joined]

/-- 7.9: the scope code of a cause record, 0 NONE. -/
def recordScopeCode : Option Scope → BitVec 2
  | none => 0#2
  | some sc => scopeCode sc

/-- 7.9: an origin byte, bit 7 set for NONE. -/
def originByte : Option StationId → Byte
  | none => 0x80#8
  | some i => 0#3 ++ idCode i

/-- 7.9: a base-rank byte, bit 7 set for NONE. -/
def baseByte : Option Rank → Byte
  | none => 0x80#8
  | some r => 0#5 ++ rankCode r

/-- R187, 7.9: the response of LOG-TAKE and LOG-PEEK for a record. -/
def CauseRecord.report (r : CauseRecord) : List Byte :=
  [statusOk, r.seq,
   causeCode r.cause ++ recordScopeCode r.scope ++ flagCode r.lossBefore ++ flagCode r.detail,
   originByte r.origin, r.epoch, baseByte r.base,
   r.uptime.extractLsb' 24 8, r.uptime.extractLsb' 16 8, r.uptime.extractLsb' 8 8, r.uptime.extractLsb' 0 8]

/-- R187: the oldest record in full, or EMPTY. -/
def State.logReport (s : State) : List Byte :=
  match s.clg.records with
  | [] => refusal statusEmpty 10
  | r :: _ => r.report

/-- R187: LOG-TAKE marks the record it reports. -/
def State.logMark (s : State) : Option Mark :=
  match s.clg.records with
  | [] => none
  | r :: _ => some (.record r.seq)

def outcomeCode : QueryOutcome → BitVec 2
  | .ok => 0#2
  | .noAnswer => 1#2
  | .dropped => 2#2

def replyBit : ReplyStatus → BitVec 1
  | .ok => 0#1
  | .noData => 1#1

/-- R176, 7.9: the response of QUERY-TAKE for a DONE slot. -/
def Slot.report (sl : Slot) : List Byte :=
  [statusOk,
   outcomeCode sl.outcome ++ replyBit sl.status ++ 0#3 ++ (itemCode sl.item).extractLsb' 0 2,
   0#3 ++ idCode sl.target, sl.data1, sl.data2]

/-! ### The commands -/

/-- R186: GET-STATUS. -/
def execGetStatus (s : State) : Result := .next (s.take .getStatus id s.statusReport none)

/-- R139, R186: the response of GET-MEMBER; an ID above 31 is RANGE. -/
def State.memberReport (s : State) (id : Byte) : List Byte :=
  if h : id.toNat < 32 then (s.record ⟨id.toNat, h⟩).report else refusal statusRange 4

/-- R186: GET-MEMBER. -/
def execGetMember (id : Byte) (s : State) : Result := .next (s.take (.getMember id) (fun t => t) (s.memberReport id) none)

/-- R187: LOG-TAKE. -/
def execLogTake (s : State) : Result := .next (s.take .logTake id s.logReport s.logMark)

/-- R187: LOG-PEEK. -/
def execLogPeek (s : State) : Result := .next (s.take .logPeek id s.logReport none)

/-- R97: a hold entry requested in MEMBER. -/
def State.holdRequest (a : HoldAction) (s : State) : State := if s.isMember then s.request (.hold a) else s

/-- R97: the status of HOLD-REQ and RESUME-REQ. -/
def State.memberStatus (s : State) : List Byte := if s.isMember then [statusOk] else [statusState]

/-- R97: HOLD-REQ. -/
def execHoldReq (s : State) : Result := .next (s.take .holdReq (State.holdRequest .hold) s.memberStatus none)

/-- R97: RESUME-REQ. -/
def execResumeReq (s : State) : Result := .next (s.take .resumeReq (State.holdRequest .resume) s.memberStatus none)

/-- R86, R139: the scope named by an argument byte, none outside its range. -/
def scopeOfByte (b : Byte) : Option Scope :=
  if b = 1#8 then some .local else if b = 2#8 then some .rank else if b = 3#8 then some .domain else none

/-- R86: the effect of RESET-REQ. -/
def State.resetRequest (scope : Byte) (s : State) : State :=
  match scopeOfByte scope with
  | some sc => if s.isMember && s.running then s.localFault .soft sc else s
  | none => s

/-- R86, R139: the status of RESET-REQ. -/
def State.resetStatus (s : State) (scope : Byte) : List Byte :=
  match scopeOfByte scope with
  | some _ => if s.isMember && s.running then [statusOk] else [statusState]
  | none => [statusRange]

/-- R86: RESET-REQ. -/
def execResetReq (scope : Byte) (s : State) : Result :=
  .next (s.take (.resetReq scope) (State.resetRequest scope) (s.resetStatus scope) none)

/-- R139: the item named by an argument byte, none outside 1 to 3. -/
def itemOfByte (b : Byte) : Option Item :=
  if b = 1#8 then some .status else if b = 2#8 then some .logSummary else if b = 3#8 then some .lastFault else none

/-- R139: the station ID named by an argument byte. -/
def idOfByte (b : Byte) : Option StationId := if h : b.toNat < 32 then some ⟨b.toNat, h⟩ else none

/-- The four slots, lowest first. -/
def slotIxs : List SlotIx := [0, 1, 2, 3]

/-- R170: the FREE slot of lowest index. -/
def Qru.freeSlot (q : Qru) : Option SlotIx := slotIxs.find? (fun i => q.slots[i].state == .free)

/-- R170: an allocated slot, WAITING. -/
def Slot.allocate (sl : Slot) (target : StationId) (item : Item) : Slot :=
  ⟨.waiting, sl.gen + 1, target, item, .ok, .ok, 0, 0, .stopped⟩

/-- R171 case 4: the answer to a query to the station itself. -/
def State.selfAnswered (s : State) (sl : Slot) (item : Item) : Slot :=
  { sl with state := .done, status := (s.answer item).1, data1 := (s.answer item).2.1, data2 := (s.answer item).2.2 }

/-- R171 cases 4 and 5: a slot allocated, and answered at once or asked on the line. -/
def State.ask (s : State) (i : SlotIx) (target : StationId) (item : Item) : State :=
  let s1 := s.updateSlot i (fun sl => sl.allocate target item)
  if target = s.self then s1.updateSlot i (fun sl => s.selfAnswered sl item)
  else s1.request (.query target item ⟨i, s1.qru.slots[i].gen⟩)

/-- R171: what QUERY-REQ comes to: a refusal's status, or the slot it takes with the target and the item. -/
def State.queryCase (s : State) (target item : Byte) : Byte ⊕ (SlotIx × StationId × Item) :=
  match idOfByte target, itemOfByte item with
  | some t, some it =>
    if s.isMember = false then .inl statusState
    else if (s.record t).present = false then .inl statusRange
    else match s.qru.freeSlot with
      | none => .inl statusBusy
      | some i => .inr (i, t, it)
  | _, _ => .inl statusRange

/-- R171: the effect of QUERY-REQ. -/
def State.queryEffect (target item : Byte) (s : State) : State :=
  match s.queryCase target item with
  | .inl _ => s
  | .inr (i, t, it) => s.ask i t it

/-- R171, 7.9: the response of QUERY-REQ: the tag of the allocated slot. -/
def State.queryResponse (s : State) (target item : Byte) : List Byte :=
  match s.queryCase target item with
  | .inl status => refusal status 2
  | .inr (i, _, _) => [statusOk, 0#4 ++ tagCode ⟨i, s.qru.slots[i].gen + 1⟩]

/-- R171: QUERY-REQ. -/
def execQueryReq (target item : Byte) (s : State) : Result :=
  .next (s.take (.queryReq target item) (State.queryEffect target item) (s.queryResponse target item) none)

/-- R139: the tag named by an argument byte, none with an upper bit set. -/
def tagOfByte (b : Byte) : Option Tag :=
  if b.extractLsb' 4 4 = 0#4 then some (tagOfCode (b.extractLsb' 0 4)) else none

/-- R176: what QUERY-TAKE comes to: a status other than OK, or the DONE slot it reports. -/
def State.queryTakeCase (s : State) (tag : Byte) : Byte ⊕ SlotIx :=
  match tagOfByte tag with
  | none => .inl statusRange
  | some t =>
    if s.qru.slots[t.slot].state = .free ∨ s.qru.slots[t.slot].gen ≠ t.gen then .inl statusRange
    else if s.qru.slots[t.slot].state = .waiting then .inl statusPending
    else .inr t.slot

/-- R176: the response of QUERY-TAKE. -/
def State.queryTakeResponse (s : State) (tag : Byte) : List Byte :=
  match s.queryTakeCase tag with
  | .inl status => refusal status 5
  | .inr i => s.qru.slots[i].report

/-- R176: the slot to free on complete delivery. -/
def State.queryTakeMark (s : State) (tag : Byte) : Option Mark :=
  match s.queryTakeCase tag with
  | .inl _ => none
  | .inr i => some (.slot i)

/-- R176: QUERY-TAKE. -/
def execQueryTake (tag : Byte) (s : State) : Result :=
  .next (s.take (.queryTake tag) id (s.queryTakeResponse tag) (s.queryTakeMark tag))

/-- R90: an EXCLUDED board goes to HELD with budget 0 and is released if its condition holds. -/
def State.clearExclusion (s : State) : State :=
  if s.bsu.board = .excluded then
    (s.setBsu { s.bsu with board := .held, budget := 0 }).evalRelease.settleTerms s.dvu
  else s

/-- R90: the status of CLEAR-EXCL. -/
def State.clearStatus (s : State) : List Byte := if s.bsu.board = .excluded then [statusOk] else [statusState]

/-- R90: CLEAR-EXCL. -/
def execClearExcl (s : State) : Result := .next (s.take .clearExcl State.clearExclusion s.clearStatus none)

/-- R139: a command byte that names no command is answered RANGE in one byte. -/
def execUnknownCommand (code : Byte) (s : State) : Result :=
  .next (s.take (.unknownCommand code) id [statusRange] none)

/-! ### Output pins (R69, R184) -/

/-- R69: BRST_N is asserted (driven low) exactly while the board does not run. -/
def State.brstAsserted (s : State) : Bool := !s.running

/-- R168: the unread-result signal. -/
def State.unreadResult (s : State) : Bool := anyTable (fun sl => sl.state == .done) s.qru.slots

/-- R184: the level of ALERT_N. -/
def State.alertN (s : State) : Level :=
  if s.stc.station ≠ .start ∧ (s.logPending = true ∨ s.unreadResult = true) then .low else .high

/-- R142, R145: the station holds the line dominant: a break, or a 0 bit of its attempt. -/
def drivesLow (f : Frame) (elapsed : Nat) : Bool :=
  let bit := elapsed / 2
  match (encodeFrame f)[bit / 10]? with
  | none => false
  | some c =>
    if bit % 10 = 0 then true
    else if bit % 10 = 9 then false
    else !c.getLsbD (8 - bit % 10)

def State.lineDriven (s : State) : Bool :=
  match s.lif.drive with
  | .none => false
  | .brk _ => true
  | .frame f elapsed => drivesLow f elapsed

end Sys2Proof.Machine
end

