-- ==== Sys2Proof/Machine/Dispatch.lean ====
section
/-! DEFINITION. The commands and their meanings, one arm each. -/

namespace Sys2Proof.Machine

/-- The effect of a command on everything but the queue. -/
def exec (i : Instr) (s : State) : Host.Outcome State Fault Refusal :=
  match i with
  | .powerOnReset => Sys2Proof.Machine.execPowerOnReset s
  | .stationReset => Sys2Proof.Machine.execStationReset s
  | .resetRelease source => Sys2Proof.Machine.execResetRelease source s
  | .startUpDelayExpiry pins => Sys2Proof.Machine.execStartUpDelayExpiry pins s
  | .listenInExpiry => Sys2Proof.Machine.execListenInExpiry s
  | .quietTimerExpiry => Sys2Proof.Machine.execQuietTimerExpiry s
  | .announceTimerExpiry => Sys2Proof.Machine.execAnnounceTimerExpiry s
  | .gatherTimerExpiry => Sys2Proof.Machine.execGatherTimerExpiry s
  | .rankSettleExpiry => Sys2Proof.Machine.execRankSettleExpiry s
  | .holdLimitExpiry => Sys2Proof.Machine.execHoldLimitExpiry s
  | .holdDownExpiry => Sys2Proof.Machine.execHoldDownExpiry s
  | .recoveryExpiry => Sys2Proof.Machine.execRecoveryExpiry s
  | .watchdogExpiry => Sys2Proof.Machine.execWatchdogExpiry s
  | .stableIntervalExpiry => Sys2Proof.Machine.execStableIntervalExpiry s
  | .queryTimerExpiry slot => Sys2Proof.Machine.execQueryTimerExpiry slot s
  | .brdyRise => Sys2Proof.Machine.execBrdyRise s
  | .brdyFall => Sys2Proof.Machine.execBrdyFall s
  | .kick => Sys2Proof.Machine.execKick s
  | .fltNFall => Sys2Proof.Machine.execFltNFall s
  | .fltNRise => Sys2Proof.Machine.execFltNRise s
  | .supplyBandLow => Sys2Proof.Machine.execSupplyBandLow s
  | .supplyBandNormal => Sys2Proof.Machine.execSupplyBandNormal s
  | .emrgNFall => Sys2Proof.Machine.execEmrgNFall s
  | .breakDriveEnd => Sys2Proof.Machine.execBreakDriveEnd s
  | .attemptStart => Sys2Proof.Machine.execAttemptStart s
  | .lostArbitration => Sys2Proof.Machine.execLostArbitration s
  | .collisionAfterArbitration => Sys2Proof.Machine.execCollisionAfterArbitration s
  | .driveFault => Sys2Proof.Machine.execDriveFault s
  | .longRunStart => Sys2Proof.Machine.execLongRunStart s
  | .dominantRunEnd => Sys2Proof.Machine.execDominantRunEnd s
  | .stuckLine => Sys2Proof.Machine.execStuckLine s
  | .truncation => Sys2Proof.Machine.execTruncation s
  | .receptionError kind => Sys2Proof.Machine.execReceptionError kind s
  | .announceArrival sender epoch fields => Sys2Proof.Machine.execAnnounceArrival sender epoch fields s
  | .advanceArrival sender epoch old new => Sys2Proof.Machine.execAdvanceArrival sender epoch old new s
  | .rankTimeoutArrival sender epoch subject => Sys2Proof.Machine.execRankTimeoutArrival sender epoch subject s
  | .memberSilentArrival sender epoch subject => Sys2Proof.Machine.execMemberSilentArrival sender epoch subject s
  | .faultArrival sender epoch fields => Sys2Proof.Machine.execFaultArrival sender epoch fields s
  | .holdArrival sender epoch => Sys2Proof.Machine.execHoldArrival sender epoch s
  | .resumeArrival sender epoch => Sys2Proof.Machine.execResumeArrival sender epoch s
  | .readyArrival sender epoch senderRank => Sys2Proof.Machine.execReadyArrival sender epoch senderRank s
  | .queryArrival sender epoch target item tag => Sys2Proof.Machine.execQueryArrival sender epoch target item tag s
  | .replyArrival sender epoch fields => Sys2Proof.Machine.execReplyArrival sender epoch fields s
  | .transactionEnd more => Sys2Proof.Machine.execTransactionEnd more s
  | .getStatus => Sys2Proof.Machine.execGetStatus s
  | .getMember id => Sys2Proof.Machine.execGetMember id s
  | .logTake => Sys2Proof.Machine.execLogTake s
  | .logPeek => Sys2Proof.Machine.execLogPeek s
  | .holdReq => Sys2Proof.Machine.execHoldReq s
  | .resumeReq => Sys2Proof.Machine.execResumeReq s
  | .resetReq scope => Sys2Proof.Machine.execResetReq scope s
  | .queryReq target item => Sys2Proof.Machine.execQueryReq target item s
  | .queryTake tag => Sys2Proof.Machine.execQueryTake tag s
  | .clearExcl => Sys2Proof.Machine.execClearExcl s
  | .unknownCommand code => Sys2Proof.Machine.execUnknownCommand code s
  | .dominantRunStart => Sys2Proof.Machine.execDominantRunStart s
  | .transactionStart => Sys2Proof.Machine.execTransactionStart s

end Sys2Proof.Machine
end

