-- ==== Sys2Proof/Machine/Idle.lean ====
section
/-!
DEFINITION. Time (log entry 2). On an empty queue the step either puts the commands that are due in the queue, or lets
time pass: one half bit time outside START, one millisecond in START. The LIF samples the line at the middle of each bit
(R141, R145), so that frames, truncations and readback mismatches come from the line's levels alone.
-/

namespace Sys2Proof.Machine

/-! ### Reception (R141, R150) -/

/-- What a receiver finds at a sample. -/
inductive RxEvent
  | truncation
  | error (kind : RxError)
  | frame (f : Frame)
deriving DecidableEq, Repr

/-- R129: the characters are as many as the class in the first one asks for. -/
def charsComplete (chars : List Byte) : Bool :=
  match chars with
  | [] => false
  | c :: _ => decide (frameLength (c.extractLsb' 5 3).toNat ≤ chars.length)

/-- R133 to R136: a completed frame arrives or is a reception error. -/
def completed (chars : List Byte) : RxEvent :=
  match receiveFrame chars with
  | .ok f => .frame f
  | .error k => .error k

/-- R141: the middle of a stop bit sampled recessive: the character is taken. -/
def Reception.takeChar (r : Reception) : Receive × Option RxEvent :=
  let r' : Reception := { r with chars := r.chars ++ [r.shift], phase := none, shift := 0, wait := 0 }
  (.inFrame r', if charsComplete r'.chars then some (completed r'.chars) else none)

/-- R150: no start bit has begun within 2 T after the middle of the last stop bit. -/
def Reception.truncated (r : Reception) : Option RxEvent :=
  if Config.truncationHalves ≤ r.wait then some .truncation else none

/-- R141: the sample of one bit of the running character (0 the start bit, 9 the stop bit). A glitch between two characters
is no start bit: the truncation interval has run on through it. -/
def Reception.sample (r : Reception) (bit : Nat) (dominant : Bool) : Receive × Option RxEvent :=
  if bit = 0 then
    if dominant then (.inFrame r, none)
    else if r.chars = [] then (.outside, none)
    else (.inFrame { r with phase := none }, r.truncated)
  else if bit = 9 then
    if dominant then (.inFrame r, some (.error .framing)) else r.takeChar
  else (.inFrame { r with shift := (r.shift <<< 1) ||| (if dominant then 0#8 else 1#8) }, none)

/-- Half a bit time of a frame in reception: a sample at every bit's middle; between characters the truncation interval
runs (R150). -/
def Reception.tick (r : Reception) (dominant : Bool) : Receive × Option RxEvent :=
  let waited : Reception := { r with wait := r.wait + 1 }
  match r.phase with
  | none => (.inFrame waited, waited.truncated)
  | some p =>
    let r' : Reception := { waited with phase := some (p + 1) }
    if p % 2 = 0 then r'.sample (p / 2) dominant else (.inFrame r', none)

/-- Half a bit time of the receiver. -/
def Receive.tick (rx : Receive) (dominant : Bool) : Receive × Option RxEvent :=
  match rx with
  | .outside => (.outside, none)
  | .inFrame r => r.tick dominant

/-- The command a reception event is. -/
def RxEvent.command : RxEvent → Instr
  | .truncation => .truncation
  | .error k => .receptionError k
  | .frame f =>
    match f.body with
    | .fault c => .faultArrival f.sender f.epoch c
    | .rankTimeout k => .rankTimeoutArrival f.sender f.epoch k
    | .memberSilent t => .memberSilentArrival f.sender f.epoch t
    | .advance old new => .advanceArrival f.sender f.epoch old new
    | .hold .hold => .holdArrival f.sender f.epoch
    | .hold .resume => .resumeArrival f.sender f.epoch
    | .ready r => .readyArrival f.sender f.epoch r
    | .query target item tag => .queryArrival f.sender f.epoch target item tag
    | .reply r => .replyArrival f.sender f.epoch r
    | .announce a => .announceArrival f.sender f.epoch a

/-! ### Readback (R145, R147, R149) -/

/-- R145, R147, R149: what a comparison of the level driven with the level read finds. -/
inductive Readback
  | agrees
  | lost
  | mismatch
  | fault
deriving DecidableEq, Repr

/-- R145, R147, R149: the comparison at the middle of a bit of an attempt. -/
def readback (f : Frame) (elapsed : Nat) (dominant : Bool) : Readback :=
  let bit := elapsed / 2
  if 10 * (encodeFrame f).length ≤ bit then .agrees
  else if drivesLow f elapsed then if dominant then .agrees else .fault
  else if dominant then if bit < 10 then .lost else .mismatch
  else .agrees

/-- The comparison, if the middle of a bit ends this half bit time. -/
def Drive.compare (d : Drive) (dominant : Bool) : Readback :=
  match d with
  | .none => .agrees
  | .frame f elapsed => if elapsed % 2 = 0 then readback f (elapsed + 1) dominant else .agrees
  | .brk elapsed => if elapsed % 2 = 0 ∧ dominant = false then .fault else .agrees

/-- Half a bit time of the driver. At a mismatch after character 1 it stops at once (R147). -/
def Drive.tick (d : Drive) (found : Readback) : Drive :=
  match d with
  | .none => .none
  | .frame f elapsed => if found = .mismatch then .none else .frame f (elapsed + 1)
  | .brk elapsed => .brk (elapsed + 1)

/-- The command that a comparison gives. -/
def Readback.command : Readback → Option Instr
  | .lost => some .lostArbitration
  | .fault => some .driveFault
  | .agrees | .mismatch => none

/-- R143, R152: half a bit time of the line: the idle count, the run length, the receiver and the driver. -/
def Lif.tick (l : Lif) : Lif :=
  { l with
    receive := (l.receive.tick l.lineDominant).1
    drive := l.drive.tick (l.drive.compare l.lineDominant)
    mismatch := l.mismatch || l.drive.compare l.lineDominant == .mismatch
    idle := if l.lineDominant || l.receive != .outside then 0 else l.idle + 1
    runLength := if l.lineDominant then min (l.runLength + 1) Config.stuckHalves else 0
    joinWindow := false }

/-- The commands that the samples of this half bit time give, the driver's before the receiver's. -/
def Lif.sampled (l : Lif) : List Instr :=
  (l.drive.compare l.lineDominant).command.toList ++ ((l.receive.tick l.lineDominant).2.map RxEvent.command).toList

/-! ### Milliseconds -/

def Slot.tick (sl : Slot) : Slot := { sl with timer := sl.timer.tick }

/-- One millisecond of the view's timers; the rank settle timer is paused while the hold set is non-empty (R40). -/
def Dvu.tick (d : Dvu) : Dvu :=
  { d with announce := d.announce.tick, gatherTimer := d.gatherTimer.tick, holdLimit := d.holdLimit.tick
           settle := if holdEmpty d.holdSet then d.settle.tick else d.settle }

def Bsu.tick (b : Bsu) : Bsu :=
  { b with holdDown := b.holdDown.tick, recovery := b.recovery.tick, watchdog := b.watchdog.tick,
           stable := b.stable.tick }

/-- R115: one millisecond of every timer of the station. -/
def State.tickMs (s : State) : State :=
  (((s.setStc { s.stc with uptime := s.stc.uptime + 1, startUpDelay := s.stc.startUpDelay.tick,
                           listenIn := s.stc.listenIn.tick, quiet := s.stc.quiet.tick }).setDvu s.dvu.tick).putBsu
    s.bsu.tick).setQru { s.qru with slots := mapTable (fun _ sl => sl.tick) s.qru.slots }

/-- Half a bit time outside START. -/
def State.tickHalf (s : State) : State :=
  let s1 := (s.setLif s.lif.tick).setPending s.lif.sampled
  if s.stc.msPhase + 1 < halvesPerMs s.stc.straps.lrate then s1.setStc { s.stc with msPhase := s.stc.msPhase + 1 }
  else (s1.setStc { s.stc with msPhase := 0 }).tickMs

/-- Time passes. In START the uptime counts and the start-up delay runs once no reset is applied (R113, R115). -/
def State.passTime (s : State) : State :=
  if s.stc.station = .start then
    if s.stc.porApplied || s.stc.srstApplied then s else s.tickMs
  else s.tickHalf

/-! ### What is due -/

/-- A command that is due under a condition. -/
def dueIf (b : Bool) (i : Instr) : List Instr := if b then [i] else []

/-- The line's due commands. -/
def State.lineDue (s : State) : List Instr :=
  dueIf (s.lif.lineDominant && s.lif.runClass == .ordinary && decide (Config.longHalves < s.lif.runLength)) .longRunStart
  ++ dueIf (s.lif.lineDominant && s.lif.runClass != .stuck && decide (Config.stuckHalves ≤ s.lif.runLength)) .stuckLine
  ++ dueIf s.lif.breakDue .breakDriveEnd
  ++ dueIf s.lif.collisionDue .collisionAfterArbitration

/-- The timers' due commands. -/
def State.timersDue (s : State) : List Instr :=
  dueIf (s.stc.listenIn.isDue) .listenInExpiry
  ++ dueIf (s.stc.quiet.isDue) .quietTimerExpiry
  ++ dueIf s.dvu.announce.isDue .announceTimerExpiry
  ++ dueIf s.dvu.gatherTimer.isDue .gatherTimerExpiry
  ++ dueIf (s.dvu.settle.isDue && s.holdClear) .rankSettleExpiry
  ++ dueIf s.dvu.holdLimit.isDue .holdLimitExpiry
  ++ dueIf s.bsu.holdDown.isDue .holdDownExpiry
  ++ dueIf s.bsu.recovery.isDue .recoveryExpiry
  ++ dueIf s.bsu.watchdog.isDue .watchdogExpiry
  ++ dueIf s.bsu.stable.isDue .stableIntervalExpiry
  ++ slotIxs.flatMap (fun i => dueIf s.qru.slots[i].timer.isDue (.queryTimerExpiry i))

/-- The commands due now outside START: the line's, the timers', and the start of an attempt (R144). The end of the
start-up delay is not among them: its command carries the sampled pins. -/
def State.due (s : State) : List Instr :=
  if s.stc.station = .start then []
  else s.lineDue ++ s.timersDue ++ dueIf (s.offered.isSome && s.lif.mayBegin) .attemptStart

/-- The step on an empty queue. -/
def State.idle (s : State) : State :=
  if s.due.isEmpty then s.passTime else s.setPending s.due

end Sys2Proof.Machine
end

