-- ==== Sys2Proof/Machine/Step.lean ====
section
/-!
DEFINITION. The step: the command at the front of the queue, or the passing of time on an empty queue (log entry 2).
-/

namespace Sys2Proof.Machine

/-- The command at the front of the queue is carried out on the state with the queue's rest; on an empty queue the
station idles. -/
def step (s : State) : Host.Outcome State Fault Refusal :=
  match s.pending with
  | [] => .next s.idle
  | c :: rest => exec c (s.setPending rest)

/-- The command that a word spells put at the front of the queue; the state unchanged where the word spells none. -/
def State.withFetchWord (s : State) (nbits w : Nat) : State :=
  match decodeTableWord nbits w with
  | some c => s.setPending (c :: s.pending)
  | none => s

end Sys2Proof.Machine
end

