-- ==== Sys2Proof/WellFormed.lean ====
section
/-!
DEFINITION. Which commands are well formed: an arrival carries a valid frame (R134, R136), and an unknown command is one
whose byte names no command (R139). `exec` answers on the others too (log entries 6, 18).
-/

namespace Sys2Proof

/-- The frame an arrival command carries. -/
def Instr.frame? : Instr → Option Frame
  | .announceArrival sender epoch a => some ⟨sender, epoch, .announce a⟩
  | .advanceArrival sender epoch old new => some ⟨sender, epoch, .advance old new⟩
  | .rankTimeoutArrival sender epoch k => some ⟨sender, epoch, .rankTimeout k⟩
  | .memberSilentArrival sender epoch t => some ⟨sender, epoch, .memberSilent t⟩
  | .faultArrival sender epoch f => some ⟨sender, epoch, .fault f⟩
  | .holdArrival sender epoch => some ⟨sender, epoch, .hold .hold⟩
  | .resumeArrival sender epoch => some ⟨sender, epoch, .hold .resume⟩
  | .readyArrival sender epoch r => some ⟨sender, epoch, .ready r⟩
  | .queryArrival sender epoch target item tag => some ⟨sender, epoch, .query target item tag⟩
  | .replyArrival sender epoch r => some ⟨sender, epoch, .reply r⟩
  | _ => none

/-- R134, R136, R139. -/
def WellFormed (i : Instr) : Bool :=
  match i with
  | .unknownCommand code => !Machine.commandCodes.contains code
  | i => match i.frame? with
    | some f => Machine.frameValid f
    | none => true

end Sys2Proof
end

