-- ==== Sys2Proof/Safety.lean ====
section
/-!
DEFINITION. What the statements speak of: the values of a reset, the terms of a release, a board contained, a record
appended, a station blocked or isolated; and, for each block, what counts as sound bookkeeping, meant to be kept by every
step and to hold after reset.
-/

namespace Sys2Proof.Machine

/-! ### The Transmit Queue -/

/-- R157: at most 12 entries, no two of one key; the entry in flight is held. -/
structure Txq.Sound (q : Txq) : Prop where
  capacity : q.entries.length ≤ Config.queueCapacity
  keys     : (q.entries.map Entry.key).Nodup
  held     : ∀ k, q.inFlight = some k → k ∈ q.entries.map Entry.key

/-- R144, R146, R147, R156: an entry is in flight exactly while an attempt has its outcome still to come, which only a
MEMBER's does; after a mismatch its frame is driven no more. -/
structure QueueSound (s : State) : Prop where
  queue   : s.txq.Sound
  flight  : s.lif.attempting = true ↔ s.txq.inFlight.isSome = true
  member  : s.lif.attempting = true → s.stc.station = .member
  stopped : s.lif.mismatch = true → s.lif.drive.isFrame = false

/-! ### The Cause Log -/

/-- R179: at most 16 records; the one at place `i` carries the next sequence number less its distance from the end. -/
structure Clg.Sound (c : Clg) : Prop where
  capacity : c.records.length ≤ Config.logCapacity
  numbers  : ∀ (i : Nat) (h : i < c.records.length),
    (c.records[i]).seq = c.nextSeq - BitVec.ofNat 8 (c.records.length - i)

/-- R179. -/
def LogSound (s : State) : Prop := s.clg.Sound

/-! ### The board -/

/-- R71, R77, R81, R83, R84, R87 to R89, R92 to R94: the board's timers, count, band and latch go with its state, and a
board runs in MEMBER, or in ISOLATED under ISOPOL = KEEP, alone. -/
structure Bsu.Sound (b : Bsu) (c : Stc) : Prop where
  watchdog : b.watchdog.isArmed = true ↔ boardRunning b.board = true
  budget   : b.budget = 3 ↔ b.board = .excluded
  recovery : b.recovery.isRunning = true ↔ b.board = .recover
  stable   : b.stable.isRunning = true → b.board = .ready
  band     : boardRunning b.board = true → b.band = .normal
  latch    : boardRunning b.board = true → c.straps.fltMode = .high → b.fltLatch = .high
  station  : boardRunning b.board = true → c.station = .member ∨ (c.station = .isolated ∧ c.straps.isoPol = .high)

/-- The board's bookkeeping is sound. -/
def BoardSound (s : State) : Prop := s.bsu.Sound s.stc

/-! ### The view -/

/-- R8, R10: an absent record carries no flag and no age, and a ready record is READY. -/
structure Record.Sound (r : Record) : Prop where
  absent : r.present = false → r.ready = false ∧ r.late = false ∧ r.disagree = false ∧ r.silence = 0
  ready  : r.ready = true → r.board = .ready

/-- R9: the own record is present and shows the rank, the board, its budget and the log as the blocks have them; its
silence age is 0. -/
structure OwnSound (s : State) : Prop where
  present    : (s.record s.self).present = true
  rank       : (s.record s.self).rank = s.rank
  board      : (s.record s.self).board = s.bsu.board
  budget     : (s.record s.self).budget = s.bsu.budget
  logPending : (s.record s.self).logPending = s.logPending
  silence    : (s.record s.self).silence = 0

/-- R6, R7, R9: the own record mirrors the board in MEMBER; every record is sound; a holder is present; the front is NONE
while gather is set. -/
structure ViewSound (s : State) : Prop where
  own     : s.stc.station = .member → OwnSound s
  records : ∀ i : StationId, (s.record i).Sound
  holders : ∀ i : StationId, s.dvu.holdSet[i] = true → (s.record i).present = true
  gather  : s.dvu.gather = true → s.dvu.front = .none

/-! ### The timers of the view and of the station's life -/

/-- R1, R40: outside MEMBER the view's four timers are stopped; the settle timer runs only at a front that is a rank. -/
structure Dvu.TimersSound (d : Dvu) (station : StationState) : Prop where
  view   : station ≠ .member → d.announce = .stopped ∧ d.gatherTimer = .stopped ∧ d.settle = .stopped ∧
    d.holdLimit = .stopped
  settle : d.settle.isRunning = true → frontIsRank d.front = true

/-- R113, R116, R121: each of the station's own three timers runs in its one station state alone. -/
structure Stc.TimersSound (c : Stc) : Prop where
  startUp  : c.startUpDelay.isRunning = true → c.station = .start
  listenIn : c.listenIn.isRunning = true → c.station = .listen
  quiet    : c.quiet.isRunning = true → c.station = .isolated

/-- The timers of the view and of the station's life are sound. -/
structure TimersSound (s : State) : Prop where
  view : s.dvu.TimersSound s.stc.station
  life : s.stc.TimersSound

/-! ### The query slots -/

/-- R168, R173: the query timer runs in WAITING alone; outside DONE the outcome is OK with no data, but for a slot freed
after its result was read; a result other than OK carries none. -/
structure Slot.Sound (sl : Slot) : Prop where
  timer   : sl.timer.isRunning = true → sl.state = .waiting
  waiting : sl.state = .waiting → sl.outcome = .ok ∧ sl.status = .ok ∧ sl.data1 = 0 ∧ sl.data2 = 0
  failed  : sl.outcome ≠ .ok → sl.status = .ok ∧ sl.data1 = 0 ∧ sl.data2 = 0

/-- R168, R173. -/
def SlotsSound (s : State) : Prop := ∀ i : SlotIx, (s.qru.slots[i]).Sound

/-! ### The line -/

/-- R142, R143, R152: the idle count is 0 while the line is dominant or a frame is in reception; a run has a length only
while the line is dominant, at most 4096 T; what has been reported of it goes with its length. -/
structure Lif.Sound (l : Lif) : Prop where
  idle      : l.lineDominant = true ∨ l.receive ≠ .outside → l.idle = 0
  recessive : l.lineDominant = false → l.runLength = 0 ∧ l.runClass = .ordinary
  length    : l.runLength ≤ Config.stuckHalves
  long      : l.runClass = .long → Config.longHalves < l.runLength
  stuck     : l.runClass = .stuck → l.runLength = Config.stuckHalves

/-- The line's bookkeeping is sound. -/
def LineSound (s : State) : Prop := s.lif.Sound

/-! ### The straps -/

/-- R109: the digit a pin stands for. -/
def pinBit : Level → Nat
  | .low => 0
  | .high => 1

/-- R109: the configuration `c` is what the strap pins say: binary numbers with the highest-numbered pin most
significant, a profile, a line rate and three policies. -/
structure StrapsRead (p : StrapPins) (c : Straps) : Prop where
  id    : c.id.val =
    pinBit p.id[0] + 2 * pinBit p.id[1] + 4 * pinBit p.id[2] + 8 * pinBit p.id[3] + 16 * pinBit p.id[4]
  rank  : c.rank.val = pinBit p.rank[0] + 2 * pinBit p.rank[1] + 4 * pinBit p.rank[2]
  prof  : c.prof = match p.prof[1], p.prof[0] with
    | .low, .low => .p0
    | .low, .high => .p1
    | .high, .low => .p2
    | .high, .high => .p3
  lrate : c.lrate = match p.lrate[1], p.lrate[0] with
    | .low, .low => .k50
    | .low, .high => .k100
    | .high, .low => .k200
    | .high, .high => .k400
  cont  : c.cont.val = pinBit p.cont[0] + 2 * pinBit p.cont[1]
  rest  : c.lateAct = p.lateAct ∧ c.fltMode = p.fltMode ∧ c.isoPol = p.isoPol

/-- R109, R110, R116, R6, R173, R121: the values that the four profiles, the four line rates and the four values of CONT
name, in milliseconds and half bit times in a millisecond. -/
structure StrapTables : Prop where
  announce  : [.p0, .p1, .p2, .p3].map announcePeriod = [50, 100, 250, 500]
  listenIn  : [.p0, .p1, .p2, .p3].map listenInterval = [150, 300, 750, 1500]
  gather    : [.p0, .p1, .p2, .p3].map gatherInterval = [200, 400, 1000, 2000]
  query     : [.p0, .p1, .p2, .p3].map queryTimeout = [200, 400, 1000, 2000]
  quiet     : [.p0, .p1, .p2, .p3].map quietInterval = [50, 100, 250, 500]
  holdDown  : [.p0, .p1, .p2, .p3].map holdDownInterval = [20, 50, 100, 200]
  recovery  : [.p0, .p1, .p2, .p3].map recoveryInterval = [100, 250, 500, 1000]
  settle    : [.p0, .p1, .p2, .p3].map settleInterval = [1000, 5000, 20000, 60000]
  firstKick : [.p0, .p1, .p2, .p3].map firstKickInterval = [2000, 5000, 10000, 30000]
  watchdog  : [.p0, .p1, .p2, .p3].map watchdogPeriod = [200, 500, 1000, 2000]
  stable    : [.p0, .p1, .p2, .p3].map stableInterval = [10000, 30000, 60000, 120000]
  holdLimit : [.p0, .p1, .p2, .p3].map holdLimitInterval = [10000, 30000, 60000, 300000]
  halfBits  : [.k50, .k100, .k200, .k400].map halvesPerMs = [100, 200, 400, 800]
  scopes    : [0, 1, 2, 3].map contScope = [.local, .rank, .domain, .domain]

/-! ### Reset -/

/-- R2: the view after either reset. -/
structure ViewAtReset (d : Dvu) : Prop where
  domain  : d.epoch = 0 ∧ d.base = 0 ∧ d.front = .none ∧ d.gather = false ∧ d.gatherExpired = false
  holders : ∀ i : StationId, d.holdSet[i] = false
  records : ∀ i : StationId, d.records[i] = ⟨false, 0, .held, false, false, 0, 0, false, 0, false⟩
  timers  : d.announce = .stopped ∧ d.gatherTimer = .stopped ∧ d.settle = .stopped ∧ d.holdLimit = .stopped

/-- R70: the supervision state after either reset. -/
structure BoardAtReset (b : Bsu) : Prop where
  board    : b.board = .held
  watchdog : b.watchdog = .disarmed
  budget   : b.budget = 0
  band     : b.band = .low
  latch    : b.fltLatch = .high
  timers   : b.holdDown = .stopped ∧ b.recovery = .stopped ∧ b.stable = .stopped

/-- R142: the line's state after either reset. -/
structure LineAtReset (l : Lif) : Prop where
  receive : l.receive = .outside
  idle    : l.idle = 0
  run     : l.runLength = 0
  drive   : l.drive = .none
  counts  : l.collisions = 0 ∧ l.driveFaults = 0 ∧ l.rxErrors = 0

/-- R125, R126: what both resets return: START, uptime 0, the view, the board and the line at their values, the queue
empty, every slot at the values of R168, no last fault, the port cleared and in no transaction. -/
structure ResetApplied (t : State) : Prop where
  start  : t.stc.station = .start ∧ t.stc.uptime = 0
  timers : t.stc.startUpDelay = .stopped ∧ t.stc.listenIn = .stopped ∧ t.stc.quiet = .stopped
  view   : ViewAtReset t.dvu
  board  : BoardAtReset t.bsu
  line   : LineAtReset t.lif
  queue  : t.txq.entries = [] ∧ t.txq.inFlight = none ∧ t.txq.remembered = none
  slots  : ∀ i : SlotIx, t.qru.slots[i] =
    { state := .free, gen := 0, target := 0, item := .status, outcome := .ok, status := .ok, data1 := 0, data2 := 0
      timer := .stopped }
  fault  : t.qru.lastFault = none
  port   : t.lpt.scs ≠ .low ∧ t.lpt.observed = false ∧ t.lpt.received = [] ∧ t.lpt.taken = false ∧
    t.lpt.response = [] ∧ t.lpt.shifted = 0 ∧ t.lpt.mark = none

/-! ### The log -/

/-- R179, R182: the log once a record has been appended: a full one loses its oldest record, and the one that has become
the oldest is marked. -/
def Clg.appended (c : Clg) (r : CauseRecord) : Clg :=
  { records := (if c.records.length < Config.logCapacity then c.records else dropOldest c.records) ++
      [{ r with seq := c.nextSeq, lossBefore := false }]
    nextSeq := c.nextSeq + 1 }

/-- R178: the fields of a record that the appending event gives, at a station of this view and uptime. -/
def recordOf (cause : Cause) (scope : Option Scope) (origin : Option StationId) (epoch : Epoch) (base : Option Rank)
    (uptime : BitVec 32) (detail : Bool) : CauseRecord :=
  ⟨0, cause, scope, origin, epoch, base, uptime, false, detail⟩

/-! ### The board -/

/-- R71: the release condition of a board `b` at a station. -/
def ReleaseTerms (t : State) (b : Bsu) : Prop :=
  t.stc.station = .member ∧ (t.rank.val : Int) ≤ frontValue t.dvu.front ∧ b.holdDown = .expired ∧ b.band = .normal ∧
    (t.stc.straps.fltMode = .high → b.fltLatch = .high)

/-- R71, R77: the board of `t` is `b` after its release has been evaluated. -/
structure ReleaseEvaluated (b : Bsu) (t : State) : Prop where
  released : b.board = .held → ReleaseTerms t b →
    t.bsu = { b with board := .runup, watchdog := .first (firstKickInterval t.profile) }
  kept     : ¬(b.board = .held ∧ ReleaseTerms t b) → t.bsu = b

/-- R72, R77, R88: a running board `b` has gone to `target`: hold-down started, watchdog disarmed, stable-interval timer
stopped; latch and band as they were. -/
structure BoardStopped (b : Bsu) (p : Profile) (target : BoardState) (c : Bsu) : Prop where
  board    : c.board = target
  holdDown : c.holdDown = .running (holdDownInterval p)
  watchdog : c.watchdog = .disarmed
  stable   : c.stable = .stopped
  latch    : c.fltLatch = b.fltLatch
  band     : c.band = b.band

/-- R57, R92, R93: a running board returned to HELD, without charge; every other board left. -/
structure BoardReturned (b : Bsu) (p : Profile) (c : Bsu) : Prop where
  running : boardRunning b.board = true →
    BoardStopped b p .held c ∧ c.budget = b.budget ∧ c.recovery = b.recovery
  resting : boardRunning b.board = false → c = b

/-! ### The view -/

/-- The view's domain-wide items are the same. -/
structure SameDomain (d e : Dvu) : Prop where
  epoch         : e.epoch = d.epoch
  base          : e.base = d.base
  front         : e.front = d.front
  gather        : e.gather = d.gather
  gatherExpired : e.gatherExpired = d.gatherExpired
  holdSet       : e.holdSet = d.holdSet

/-- The view's four timers are the same. -/
structure SameTimers (d e : Dvu) : Prop where
  announce    : e.announce = d.announce
  gatherTimer : e.gatherTimer = d.gatherTimer
  settle      : e.settle = d.settle
  holdLimit   : e.holdLimit = d.holdLimit

/-- R9, R10: no record has changed, but that the own record of a MEMBER follows its board, its budget and its log. -/
structure OnlyOwnFollows (s t : State) : Prop where
  others : ∀ i : StationId, i ≠ s.self → t.record i = s.record i
  own    : t.record s.self = if s.stc.station = .member then
    { s.record s.self with rank := s.rank, board := t.bsu.board, budget := t.bsu.budget, logPending := t.logPending,
                           ready := (s.record s.self).ready && (t.bsu.board == .ready) }
    else s.record s.self

/-- R26: the view frozen: every item as it was, the four timers stopped. -/
structure ViewFrozen (d e : Dvu) : Prop where
  domain  : SameDomain d e
  records : e.records = d.records
  timers  : e.announce = .stopped ∧ e.gatherTimer = .stopped ∧ e.settle = .stopped ∧ e.holdLimit = .stopped

/-! ### The end of an attempt -/

/-- R161, R51, R96: an attempt of the queue `q` has ended without an arrival. Its entry is in flight no more and stays as
it is, or leaves by a remembered cancellation, or takes a remembered action or a remembered FAULT; with none in flight
nothing changes. -/
structure AttemptFailed (q r : Txq) : Prop where
  idle      : q.inFlight = none → r = q
  ended     : q.inFlight ≠ none → r.inFlight = none ∧ r.remembered = none
  kept      : q.remembered = none → r.entries = q.entries
  cancelled : ∀ k, q.inFlight = some k → q.remembered = some .cancellation →
    r.entries = q.entries.filter (fun e => e.key ≠ k)
  action    : ∀ a, q.inFlight = some .hold → q.remembered = some (.hold a) →
    r.entries = q.entries.map (fun e => if e.key = .hold then .hold a else e)
  fault     : ∀ g, q.inFlight = some .fault → q.remembered = some (.fault g) →
    r.entries = q.entries.map (fun e => match e with
      | .fault f => .fault (mergeFault f g)
      | e => e)

/-! ### Departures -/

/-- R94: the board at entry to BLOCKED. -/
structure BoardBlocked (b : Bsu) (p : Profile) (c : Bsu) : Prop where
  running  : boardRunning b.board = true → BoardStopped b p .held c ∧ c.budget = b.budget ∧ c.recovery = b.recovery
  recover  : b.board = .recover → c = { b with board := .held, recovery := .stopped }
  held     : b.board = .held → c = b
  excluded : b.board = .excluded → c = b

/-- R123, R153: the station `s` has become `t` by a duplicate identity. An attempt is driven no more; a break goes on. -/
structure EnteredBlocked (s t : State) : Prop where
  station : t.stc = { s.stc with station := .blocked }
  drive   : t.lif.drive = (if s.lif.drive.isFrame = true then .none else s.lif.drive) ∧ t.lif.mismatch = false
  queue   : t.txq.entries = [] ∧ t.txq.inFlight = none ∧ t.txq.remembered = none
  log     : t.clg = s.clg.appended (recordOf .dupId none (some s.self) s.dvu.epoch none s.stc.uptime false)
  view    : ViewFrozen s.dvu t.dvu
  board   : BoardBlocked s.bsu s.profile t.bsu
  slots   : ∀ i : SlotIx, t.qru.slots[i] =
    if (s.qru.slots[i]).state = .waiting ∧ (s.qru.slots[i]).timer = .stopped then
      { s.qru.slots[i] with timer := .running (queryTimeout s.profile) } else s.qru.slots[i]
  fault   : t.qru.lastFault = s.qru.lastFault
  pending : t.pending = s.pending

/-- R120, R92, R153, R161, R163: the station `s` has become `t` by a stuck line or a third drive fault: what was in flight
has failed, and a board returned to HELD cancels a waiting READY. A drive fault has ended what was driven (R149); at a stuck
line an attempt is driven no more and a break goes on. -/
structure EnteredIsolated (s t : State) (byDrive : Bool) : Prop where
  station : t.stc.station = .isolated ∧ t.stc.listenIn = .stopped
  quiet   : t.stc.quiet = if s.lif.runClass = .ordinary then .running (quietInterval s.profile) else .stopped
  line    : t.lif.drive = (if byDrive = true ∨ s.lif.drive.isFrame = true then .none else s.lif.drive) ∧
    t.lif.mismatch = false ∧ t.lif.collisions = 0 ∧ t.lif.driveFaults = 0
  flight  : t.txq.inFlight = none
  queue   : ∃ q, AttemptFailed s.txq q ∧ t.txq =
    if s.stc.straps.isoPol = .low ∧ boardRunning s.bsu.board = true then
      { q with entries := q.entries.filter (fun e => e.key ≠ .ready) } else q
  log     : t.clg = s.clg.appended (recordOf .isolated none (some s.self) s.dvu.epoch none s.stc.uptime byDrive)
  view    : ViewFrozen s.dvu t.dvu
  held    : s.stc.straps.isoPol = .low → BoardReturned s.bsu s.profile t.bsu
  keep    : s.stc.straps.isoPol = .high → t.bsu = s.bsu
  rest    : t.qru = s.qru ∧ t.pending = s.pending ∧ t.stc.straps = s.stc.straps ∧ t.stc.uptime = s.stc.uptime

/-! ### Faults and rewinds -/

/-- R48, R85: the scope a local fault goes out with: RANK at rank 0 is DOMAIN. -/
def sentScope (scope : Scope) (own : Rank) : Scope :=
  match scope with
  | .rank => if own = 0 then .domain else .rank
  | sc => sc

/-- R48, R85: the rewind rank of a local fault. -/
def sentRewindRank (scope : Scope) (own : Rank) : Rank :=
  match sentScope scope own with
  | .domain => 0
  | _ => own

/-- R85: the FAULT a station requests for a local fault. -/
def sentFault (s : State) (cause : Cause) (scope : Scope) : FaultFields :=
  { cause := cause, scope := sentScope scope s.rank, senderRank := s.rank, rewindRank := sentRewindRank scope s.rank }

/-- R180: the base rank of a local fault's record, NONE for LOCAL. -/
def sentBase (scope : Scope) (own : Rank) : Option Rank :=
  match sentScope scope own with
  | .local => none
  | _ => some (sentRewindRank scope own)

/-- R88: the budget count after a detection. -/
def budgetAfter (n : Budget) (cause : Cause) : Nat :=
  if cause = .wdog ∨ cause = .boardFlt then n.val + 1 else n.val

/-- R84, R85, R88, R89: a local fault of a running board has been detected: the board contained, the records appended,
the last fault kept, a waiting READY cancelled, and FAULT(cause, scope, own rank, rewind rank) pending: as a new entry,
merged into the waiting one (R50), or remembered beside the one in flight (R160). -/
structure FaultDetected (s t : State) (cause : Cause) (scope : Scope) : Prop where
  budget   : (t.bsu.budget).val = budgetAfter s.bsu.budget cause
  excluded : budgetAfter s.bsu.budget cause = 3 → (cause = .wdog ∨ cause = .boardFlt) →
    BoardStopped s.bsu s.profile .excluded t.bsu ∧ t.bsu.recovery = s.bsu.recovery ∧
    t.clg = (s.clg.appended (recordOf cause (some (sentScope scope s.rank)) (some s.self) s.dvu.epoch
      (sentBase scope s.rank) s.stc.uptime false)).appended
      (recordOf .excluded none (some s.self) s.dvu.epoch none s.stc.uptime false)
  recover  : ¬(budgetAfter s.bsu.budget cause = 3 ∧ (cause = .wdog ∨ cause = .boardFlt)) →
    BoardStopped s.bsu s.profile .recover t.bsu ∧ t.bsu.recovery = .running (recoveryInterval s.profile) ∧
    t.clg = s.clg.appended (recordOf cause (some (sentScope scope s.rank)) (some s.self) s.dvu.epoch
      (sentBase scope s.rank) s.stc.uptime false)
  last     : t.qru.lastFault = some ⟨cause, sentScope scope s.rank, s.dvu.epoch⟩
  request  : (s.txq.holds .fault = false → Entry.fault (sentFault s cause scope) ∈ t.txq.entries) ∧
    (∀ f, .fault f ∈ s.txq.entries → s.txq.inFlight ≠ some .fault →
      .fault (mergeFault f (sentFault s cause scope)) ∈ t.txq.entries) ∧
    (s.txq.inFlight = some .fault → s.txq.remembered = none →
      t.txq.remembered = some (.fault (sentFault s cause scope)))
  ready    : (s.txq.inFlight ≠ some .ready → ∀ r, .ready r ∉ t.txq.entries) ∧
    (s.txq.inFlight = some .ready → t.txq.remembered = some .cancellation)
  others   : s.txq.entries.length ≤ 10 → ∀ e ∈ s.txq.entries, e.key ≠ .fault → e.key ≠ .ready → e ∈ t.txq.entries
  slots    : s.txq.entries.length ≤ 10 → t.qru.slots = s.qru.slots
  view     : SameDomain s.dvu t.dvu ∧ SameTimers s.dvu t.dvu ∧ OnlyOwnFollows s t
  rest     : t.stc = s.stc ∧ t.lif = s.lif ∧ t.pending = s.pending

/-- R58: a rewind to `b` absorbs the FAULT of a station of rank `own`. -/
def Absorbed (f : FaultFields) (b own : Rank) : Prop :=
  f.cause = .start ∨ (f.scope = .domain ∧ b = 0) ∨ (f.scope = .rank ∧ b ≤ f.rewindRank) ∨ (f.scope = .local ∧ b ≤ own)

/-- R58, R164: the entries that a rewind, catch-up or adoption at `b` keeps. -/
def KeptAtRewind (b own : Rank) : Entry → Prop
  | .fault f => ¬Absorbed f b own
  | .hold _ | .query _ _ _ | .reply _ | .announce => True
  | .rankTimeout _ | .memberSilent _ | .advance _ _ | .ready _ => False

/-- R164, R58: the queue after a rewind, catch-up or adoption at `b`: no ADVANCE but a newly requested one, no LAPSE, no
READY and no absorbed FAULT; with room for what the event requests, every other entry that waited is still there, and
nothing has come but an ANNOUNCE or an ADVANCE. -/
structure QueuePurged (s t : State) (b : Rank) : Prop where
  advance : ∀ old new, .advance old new ∈ t.txq.entries → old = t.dvu.front ∧ new = t.dvu.nextFront
  lapse   : (∀ k, .rankTimeout k ∉ t.txq.entries) ∧ ∀ i, .memberSilent i ∉ t.txq.entries
  ready   : ∀ r, .ready r ∉ t.txq.entries
  fault   : ∀ f, .fault f ∈ t.txq.entries → ¬Absorbed f b s.rank
  kept    : s.txq.entries.length ≤ 10 →
    ∀ e ∈ s.txq.entries, s.txq.inFlight ≠ some e.key → KeptAtRewind b s.rank e → e ∈ t.txq.entries
  nothing : ∀ e ∈ t.txq.entries, e ∈ s.txq.entries ∨ e.key = .announce ∨ e.key = .advance

/-- R55 to R57: the view, the records and the board after a rewind to `b`; the record appended and the queue are stated
apart. -/
structure Rewound (s t : State) (b : Rank) (start : Bool) : Prop where
  epoch    : t.dvu.epoch = epochSucc s.dvu.epoch
  base     : t.dvu.base = b
  front    : frontValue t.dvu.front = (b.val : Int) - 1
  gather   : t.dvu.gather = start ∧ t.dvu.gatherExpired = false
  holdSet  : t.dvu.holdSet = s.dvu.holdSet
  timers   : t.dvu.gatherTimer = (if start then .running (gatherInterval s.profile) else .stopped) ∧
    t.dvu.settle = (if b = 0 then .stopped else .running (settleInterval s.profile)) ∧
    t.dvu.announce = s.dvu.announce ∧ t.dvu.holdLimit = s.dvu.holdLimit
  covered  : ∀ i : StationId, i ≠ s.self → (s.record i).present = true → b ≤ (s.record i).rank →
    t.record i = { s.record i with ready := false, late := false, board := .held }
  below    : ∀ i : StationId, i ≠ s.self → (s.record i).present = true → ¬b ≤ (s.record i).rank →
    t.record i = { s.record i with late := false }
  absent   : ∀ i : StationId, i ≠ s.self → (s.record i).present = false → t.record i = s.record i
  own      : (t.record s.self).late = false ∧ (b ≤ s.rank → (t.record s.self).ready = false) ∧
    (t.record s.self).board = t.bsu.board
  covers   : b ≤ s.rank → BoardReturned s.bsu s.profile t.bsu
  spared   : ¬b ≤ s.rank → ReleaseEvaluated s.bsu t
  station  : t.stc = s.stc

/-! ### What is still to be told -/

/-- R152, R155: nothing is still to be told of the run in progress. -/
def LimitsTold (l : Lif) : Prop :=
  l.lineDominant = true → (18 < l.runLength → l.runClass ≠ .ordinary) ∧ (8192 ≤ l.runLength → l.runClass = .stuck)

/-- R147: no mismatch awaits its class on a line that is recessive again. -/
def CollisionTold (l : Lif) : Prop := l.lineDominant = false → l.mismatch = false

/-- R153: no break is held as driven whose 32 T are over. -/
def BreakTold (l : Lif) : Prop := ∀ n, l.drive = .brk n → n < 64

/-- The command `c` does at `s` what it does once `first` has been carried out. -/
def DoneAfter (first c : Instr) (s : State) : Prop := ∃ u, exec first s = .next u ∧ exec c s = exec c u

/-- R152, R155: a run that has come to 9 T or to 4096 T makes the limit's effects before `c`. -/
structure LimitsFirst (c : Instr) (s : State) : Prop where
  long  : s.lif.lineDominant = true → 18 < s.lif.runLength → s.lif.runLength < 8192 → s.lif.runClass = .ordinary →
    DoneAfter .longRunStart c s
  stuck : s.lif.lineDominant = true → 8192 ≤ s.lif.runLength → s.lif.runClass ≠ .stuck → DoneAfter .stuckLine c s

/-- R147: a collision that the end of its run has settled is reported before `c`. -/
def CollisionFirst (c : Instr) (s : State) : Prop :=
  LineSound s → s.lif.lineDominant = false → s.lif.mismatch = true → DoneAfter .collisionAfterArbitration c s

/-- R153: a break whose 32 T are over ends before `c`. -/
def BreakFirst (c : Instr) (s : State) : Prop :=
  (∃ n, s.lif.drive = .brk n ∧ 64 ≤ n) → DoneAfter .breakDriveEnd c s

/-! ### The characters of a frame -/

/-- R133: one bit of the CRC-8 with generator x⁸ + x² + x + 1, taken serially. -/
def crcBit (r : Byte) (bit : Bool) : Byte := if r.getLsbD 7 != bit then (r <<< 1) ^^^ 0x07#8 else r <<< 1

/-- R133: the check character, bit by bit: each character from its most significant bit, from a register of ones. -/
def crcSerial (chars : List Byte) : Byte :=
  (chars.flatMap fun c => (List.range 8).map fun k => c.getLsbD (7 - k)).foldl crcBit 0xFF#8

/-- R128, R129, R132, 7.9: the characters of a frame before its check character, as numbers. -/
def frameLayout (f : Frame) : List Nat :=
  match f.body with
  | .fault c => [0 + f.sender.val, f.epoch.toNat, 16 * (causeCode c.cause).toNat + 4 * (scopeCode c.scope).toNat,
      32 * c.senderRank.val + c.rewindRank.val]
  | .rankTimeout k => [32 + f.sender.val, f.epoch.toNat, k.val]
  | .memberSilent i => [32 + f.sender.val, f.epoch.toNat, 128 + i.val]
  | .advance old new => [64 + f.sender.val, f.epoch.toNat, 16 * (frontCode old).toNat + (frontCode new).toNat]
  | .hold .hold => [96 + f.sender.val, f.epoch.toNat, 0]
  | .hold .resume => [96 + f.sender.val, f.epoch.toNat, 1]
  | .ready r => [128 + f.sender.val, f.epoch.toNat, r.val]
  | .query target item tag => [160 + f.sender.val, f.epoch.toNat, target.val,
      16 * (itemCode item).toNat + 4 * tag.slot.val + tag.gen.val]
  | .reply r => [192 + f.sender.val, f.epoch.toNat, r.requester.val,
      16 * (itemCode r.item).toNat + 4 * r.tag.slot.val + r.tag.gen.val, (if r.status = .ok then 0 else 1),
      r.data1.toNat, r.data2.toNat]
  | .announce a => [224 + f.sender.val, f.epoch.toNat,
      32 * a.senderRank.val + 4 * (boardCode a.board).toNat + a.budget.val,
      16 * (frontCode a.front).toNat + a.base.val,
      128 * a.gather.toNat + 64 * a.holding.toNat + 32 * a.logPending.toNat]

/-! ### Time on the line -/

/-- R128, R140: the bits of a frame in the order they are sent, true for a dominant one: for each character a start bit,
its eight bits from the most significant, a 0 being dominant, and a recessive stop bit. -/
def lineBits (f : Frame) : List Bool :=
  (encodeFrame f).flatMap fun c => true :: ((List.range 8).map fun k => !c.getLsbD (7 - k)) ++ [false]

/-- R145, R147, R149, R153: the driver after half a bit time, whether a mismatch then awaits its class, and whether
arbitration was found lost or a drive fault met. A bit is read back at its middle, which is its first half's end. At a
mismatch after character 1 the station stops driving at once. -/
structure DriverTicked (l : Lif) (d : Drive) (mismatch : Bool) (lost fault : Prop) : Prop where
  none     : l.drive = .none → d = .none ∧ mismatch = l.mismatch ∧ ¬lost ∧ ¬fault
  brk      : ∀ n, l.drive = .brk n →
    d = .brk (n + 1) ∧ mismatch = l.mismatch ∧ ¬lost ∧ (fault ↔ n % 2 = 0 ∧ l.lineDominant = false)
  between  : ∀ f n, l.drive = .frame f n → n % 2 = 1 → d = .frame f (n + 1) ∧ mismatch = l.mismatch ∧ ¬lost ∧ ¬fault
  dominant : ∀ f n, l.drive = .frame f n → n % 2 = 0 → (lineBits f)[n / 2]? = some true →
    d = .frame f (n + 1) ∧ mismatch = l.mismatch ∧ ¬lost ∧ (fault ↔ l.lineDominant = false)
  recessive : ∀ f n, l.drive = .frame f n → n % 2 = 0 → (lineBits f)[n / 2]? = some false → ¬fault ∧
    (l.lineDominant = false → d = .frame f (n + 1) ∧ mismatch = l.mismatch ∧ ¬lost) ∧
    (l.lineDominant = true → n / 2 < 10 → d = .frame f (n + 1) ∧ mismatch = l.mismatch ∧ lost) ∧
    (l.lineDominant = true → 10 ≤ n / 2 → d = .none ∧ mismatch = true ∧ ¬lost)
  past     : ∀ f n, l.drive = .frame f n → n % 2 = 0 → (lineBits f)[n / 2]? = .none →
    d = .frame f (n + 1) ∧ mismatch = l.mismatch ∧ ¬lost ∧ ¬fault

/-- R141, R150: the receiver after half a bit time, and the command its sample gives, if any. Outside a frame nothing;
between two characters the truncation interval runs, 2 T from the last stop bit's middle; in a character the start bit,
the eight data bits and the stop bit are each sampled at the middle. The frame is whole when it has the characters its
class asks for. A start bit that is a glitch begins no character, and the truncation interval has run on through it. -/
structure ReceiverTicked (l : Lif) (rx : Receive) (c : Option Instr) : Prop where
  outside : l.receive = .outside → rx = .outside ∧ c = none
  gap     : ∀ r, l.receive = .inFrame r → r.phase = none →
    rx = .inFrame { r with wait := r.wait + 1 } ∧ c = if 4 ≤ r.wait + 1 then some .truncation else none
  between : ∀ r p, l.receive = .inFrame r → r.phase = some p → p % 2 = 1 →
    rx = .inFrame { r with phase := some (p + 1), wait := r.wait + 1 } ∧ c = none
  start   : ∀ r, l.receive = .inFrame r → r.phase = some 0 →
    (l.lineDominant = true → rx = .inFrame { r with phase := some 1, wait := r.wait + 1 } ∧ c = none) ∧
    (l.lineDominant = false → r.chars = [] → rx = .outside ∧ c = none) ∧
    (l.lineDominant = false → r.chars ≠ [] → rx = .inFrame { r with phase := none, wait := r.wait + 1 } ∧
      c = if 4 ≤ r.wait + 1 then some .truncation else none)
  data    : ∀ r p, l.receive = .inFrame r → r.phase = some p → p % 2 = 0 → 1 ≤ p / 2 → p / 2 ≤ 8 → c = none ∧
    rx = .inFrame { r with phase := some (p + 1), wait := r.wait + 1
                           shift := (r.shift <<< 1) ||| (if l.lineDominant then 0#8 else 1#8) }
  framing : ∀ r, l.receive = .inFrame r → r.phase = some 18 → l.lineDominant = true →
    rx = .inFrame { r with phase := some 19, wait := r.wait + 1 } ∧ c = some (.receptionError .framing)
  char    : ∀ r, l.receive = .inFrame r → r.phase = some 18 → l.lineDominant = false →
    rx = .inFrame { r with chars := r.chars ++ [r.shift], phase := none, shift := 0, wait := 0 } ∧
    ∀ first rest, r.chars ++ [r.shift] = first :: rest →
      ((r.chars ++ [r.shift]).length < frameLength (first.toNat / 32) → c = none) ∧
      (frameLength (first.toNat / 32) ≤ (r.chars ++ [r.shift]).length →
        (∀ k, receiveFrame (r.chars ++ [r.shift]) = .error k → c = some (.receptionError k)) ∧
        ∀ f, receiveFrame (r.chars ++ [r.shift]) = .ok f → ∃ i, c = some i ∧ i.frame? = some f)

/-- R141, R143, R145, R152: half a bit time of the line: the idle count runs on a recessive line outside any frame, the
run on a dominant one up to 4096 T; the driver and the receiver take their samples, and what they find is queued, the
driver's first. -/
structure HalfBitPassed (s t : State) : Prop where
  idle     : t.lif.idle = if s.lif.lineDominant = true ∨ s.lif.receive ≠ .outside then 0 else s.lif.idle + 1
  run      : t.lif.runLength = if s.lif.lineDominant = true then min (s.lif.runLength + 1) 8192 else 0
  same     : t.lif.lineDominant = s.lif.lineDominant ∧ t.lif.runClass = s.lif.runClass ∧
    t.lif.collisions = s.lif.collisions ∧ t.lif.driveFaults = s.lif.driveFaults ∧ t.lif.rxErrors = s.lif.rxErrors ∧
    t.lif.joinWindow = false ∧ t.lif.gapTaken = s.lif.gapTaken
  samples  : ∃ (lost fault : Bool) (c : Option Instr),
    DriverTicked s.lif t.lif.drive t.lif.mismatch (lost = true) (fault = true) ∧ ReceiverTicked s.lif t.lif.receive c ∧
    t.pending = (if lost then [.lostArbitration] else []) ++ (if fault then [.driveFault] else []) ++ c.toList

/-! ### Milliseconds -/

/-- A timer after a millisecond: stopped it stays stopped, running it has one less to run. -/
structure TimerTicked (a b : Timer) : Prop where
  stopped : a = .stopped → b = .stopped
  running : ∀ n, a = .running (n + 1) → b = .running n

/-- R72, R100: a timer that stays expired, after a millisecond. -/
structure LatchingTicked (a b : LatchingTimer) : Prop where
  stopped : a = .stopped → b = .stopped
  expired : a = .expired → b = .expired
  running : ∀ n, a = .running (n + 1) → b = .running n

/-- R77: the watchdog after a millisecond. -/
structure WatchdogTicked (a b : Watchdog) : Prop where
  disarmed : a = .disarmed → b = .disarmed
  first    : ∀ n, a = .first (n + 1) → b = .first n
  running  : ∀ n, a = .running (n + 1) → b = .running n

/-- R115, R40: a millisecond of the station: uptime and every timer, but for a rank settle timer paused by a holder. -/
structure MillisecondPassed (s t : State) : Prop where
  station   : t.stc = { s.stc with
    uptime := s.stc.uptime + 1, msPhase := 0, startUpDelay := t.stc.startUpDelay, listenIn := t.stc.listenIn
    quiet := t.stc.quiet }
  life      : TimerTicked s.stc.startUpDelay t.stc.startUpDelay ∧ TimerTicked s.stc.listenIn t.stc.listenIn ∧
    TimerTicked s.stc.quiet t.stc.quiet
  view      : TimerTicked s.dvu.announce t.dvu.announce ∧ TimerTicked s.dvu.gatherTimer t.dvu.gatherTimer ∧
    LatchingTicked s.dvu.holdLimit t.dvu.holdLimit
  settle    : (∀ i : StationId, s.dvu.holdSet[i] = false) → TimerTicked s.dvu.settle t.dvu.settle
  paused    : (∃ i : StationId, s.dvu.holdSet[i] = true) → t.dvu.settle = s.dvu.settle
  domain    : SameDomain s.dvu t.dvu ∧ t.dvu.records = s.dvu.records
  board     : LatchingTicked s.bsu.holdDown t.bsu.holdDown ∧ TimerTicked s.bsu.recovery t.bsu.recovery ∧
    WatchdogTicked s.bsu.watchdog t.bsu.watchdog ∧ TimerTicked s.bsu.stable t.bsu.stable
  boardRest : t.bsu = { s.bsu with
    holdDown := t.bsu.holdDown, recovery := t.bsu.recovery, watchdog := t.bsu.watchdog, stable := t.bsu.stable }
  slots     : ∀ i : SlotIx, TimerTicked (s.qru.slots[i]).timer (t.qru.slots[i]).timer ∧
    t.qru.slots[i] = { s.qru.slots[i] with timer := (t.qru.slots[i]).timer }
  fault     : t.qru.lastFault = s.qru.lastFault

/-! ### Arrivals -/

/-- The key of the entry that a frame goes out for. -/
def bodyKey : Body → Key
  | .fault _ => .fault
  | .rankTimeout k => .rankTimeout k
  | .memberSilent i => .memberSilent i
  | .advance _ _ => .advance
  | .hold _ => .hold
  | .ready _ => .ready
  | .query _ _ tag => .query tag.slot
  | .reply r => .reply r.requester r.tag
  | .announce _ => .announce

/-- R136: a valid frame from another station arrives at a MEMBER that is not sending. -/
structure HearsOther (s : State) (f : Frame) : Prop where
  member : s.stc.station = .member
  quiet  : s.lif.attempting = false ∧ s.txq.inFlight = none
  other  : f.sender ≠ s.self
  valid  : frameValid f = true

/-- R137: the frame of its own attempt, driven to the end with no mismatch, arrives at a MEMBER. -/
structure HearsOwn (s : State) (f : Frame) : Prop where
  member : s.stc.station = .member
  sent   : (∃ n, s.lif.drive = .frame f n) ∧ s.lif.mismatch = false
  flight : s.txq.inFlight = some (bodyKey f.body)
  own    : f.sender = s.self
  valid  : frameValid f = true

/-- R141, R143, R137, R146: what the arrival of a frame does at a MEMBER apart from the view, the board, the queue and
the log: the receiver is outside any frame, the idle count restarts, and the own arrival ends the attempt and clears the
two counts. With room in the queue no query is dropped. -/
structure HeardFrame (s t : State) (f : Frame) : Prop where
  stc     : t.stc = s.stc
  line    : t.lif = { s.lif with
    receive := .outside, idle := 0, gapTaken := false
    drive := if f.sender = s.self then .none else s.lif.drive
    collisions := if f.sender = s.self then 0 else s.lif.collisions
    driveFaults := if f.sender = s.self then 0 else s.lif.driveFaults }
  slots   : s.txq.entries.length ≤ 9 → t.qru = s.qru
  pending : t.pending = s.pending

/-! ### The local port -/

/-- R138, R185, R188: a command may be taken: the station is outside START, in a transaction that began there, and nothing
has been taken in it. -/
structure AwaitsCommand (s : State) : Prop where
  station  : s.stc.station ≠ .start
  started  : s.lpt.scs = .low ∧ s.lpt.observed = true
  untaken  : s.lpt.taken = false

/-- 7.9: the commands that the local port takes. -/
def isPortCommand : Instr → Bool
  | .getStatus | .getMember _ | .logTake | .logPeek | .holdReq | .resumeReq | .resetReq _ | .queryReq _ _
  | .queryTake _ | .clearExcl | .unknownCommand _ => true
  | _ => false

/-- R138: the port once a command has been taken. -/
def Lpt.answered (received response : List Byte) (mark : Option Mark) : Lpt :=
  { scs := .low, observed := true, received := received, taken := true, response := response, shifted := 0
    mark := mark }

/-! ### The queue -/

/-- R50: a FAULT request is wider than the pending one. -/
def Wider (new held : FaultFields) : Prop :=
  (new.scope = .domain ∧ held.scope ≠ .domain) ∨ (new.scope = .rank ∧ held.scope = .local) ∨
    (new.scope = .rank ∧ held.scope = .rank ∧ new.rewindRank < held.rewindRank)

/-- R165: the entries that may be discarded are these, and `d` is the youngest of the least urgent class among them. -/
structure YoungestOfLeastUrgent (waiting : List Entry) (d : Entry) : Prop where
  least    : ∀ x ∈ waiting, x.urgency ≤ d.urgency
  youngest : ∃ older younger, waiting = older ++ d :: younger ∧ ∀ x ∈ younger, x.urgency ≠ d.urgency

end Sys2Proof.Machine
end

