-- ==== Sys2Proof/Certificates/Slice0/Obligations.lean ====
section
/-!
DEFINITION. The statements. Each is named after what it states; a docstring names the rules it rests on.
-/

section

open Sys2Proof Sys2Proof.Machine

/-! ### The step -/

/-- The step carries out the command at the front of the queue on the state with the queue's rest. -/
def Obligations.StepTakesTheCommandAtTheFront : Prop :=
  ∀ (c : Instr) (rest : List Instr) (s : State),
    step { s with pending := c :: rest } = exec c { s with pending := rest }

/-- Every command has a next state, and leaves the queue of waiting commands as it finds it. -/
def Obligations.EveryCommandAnswersAndKeepsTheQueue : Prop :=
  ∀ (c : Instr) (s : State), ∃ t, exec c s = .next t ∧ t.pending = s.pending

/-- What is due outside START, and no more, each once: a timer's expiry once nothing of it is left (the rank settle
timer's only while no station holds, R40); a run past 9 T and a stuck line not told yet (R152, R155); the end of a
break driven for 32 T (R153); a collision whose run has ended (R147); an attempt once an entry is offered and may
begin (R144, R146). On an empty queue the step queues what is due, if anything is. The device itself is the model's choice
(log entry 2); how long an edge may be joined, what is kept of a run's class and which gap is the next are its readings (log
entries 15, 16, 24).
-/
def Obligations.IdleStepQueuesWhatIsDue : Prop :=
  ∀ s : State, s.pending = [] →
    (s.due ≠ [] → step s = .next { s with pending := s.due }) ∧ (s.stc.station = .start → s.due = []) ∧ s.due.Nodup ∧
    (∀ c ∈ s.due, c ∈ [Instr.announceTimerExpiry, .gatherTimerExpiry, .rankSettleExpiry, .holdLimitExpiry,
      .listenInExpiry, .quietTimerExpiry, .holdDownExpiry, .recoveryExpiry, .watchdogExpiry, .stableIntervalExpiry,
      .longRunStart, .stuckLine, .breakDriveEnd, .collisionAfterArbitration, .attemptStart] ∨
      ∃ i, c = .queryTimerExpiry i) ∧
    (s.stc.station ≠ .start →
      (.announceTimerExpiry ∈ s.due ↔ s.dvu.announce = .running 0) ∧
      (.gatherTimerExpiry ∈ s.due ↔ s.dvu.gatherTimer = .running 0) ∧
      (.rankSettleExpiry ∈ s.due ↔ s.dvu.settle = .running 0 ∧ ∀ i : StationId, s.dvu.holdSet[i] = false) ∧
      (.holdLimitExpiry ∈ s.due ↔ s.dvu.holdLimit = .running 0) ∧
      (.listenInExpiry ∈ s.due ↔ s.stc.listenIn = .running 0) ∧ (.quietTimerExpiry ∈ s.due ↔ s.stc.quiet = .running 0) ∧
      (.holdDownExpiry ∈ s.due ↔ s.bsu.holdDown = .running 0) ∧ (.recoveryExpiry ∈ s.due ↔ s.bsu.recovery = .running 0) ∧
      (.watchdogExpiry ∈ s.due ↔ s.bsu.watchdog = .first 0 ∨ s.bsu.watchdog = .running 0) ∧
      (.stableIntervalExpiry ∈ s.due ↔ s.bsu.stable = .running 0) ∧
      (∀ i : SlotIx, .queryTimerExpiry i ∈ s.due ↔ (s.qru.slots[i]).timer = .running 0) ∧
      (.longRunStart ∈ s.due ↔ s.lif.lineDominant = true ∧ s.lif.runClass = .ordinary ∧ 18 < s.lif.runLength) ∧
      (.stuckLine ∈ s.due ↔ s.lif.lineDominant = true ∧ s.lif.runClass ≠ .stuck ∧ 8192 ≤ s.lif.runLength) ∧
      (.breakDriveEnd ∈ s.due ↔ ∃ n, s.lif.drive = .brk n ∧ 64 ≤ n) ∧
      (.collisionAfterArbitration ∈ s.due ↔ s.lif.lineDominant = false ∧ s.lif.mismatch = true) ∧
      (.attemptStart ∈ s.due ↔ s.offered.isSome = true ∧ s.lif.drive = .none ∧ s.lif.mismatch = false ∧
        ((s.lif.lineDominant = false ∧ s.lif.gapTaken = false ∧ 24 ≤ s.lif.idle ∧ s.lif.idle % 2 = 0) ∨
          s.lif.joinWindow = true)))

/-- R140, R141, R143, R145, R147, R149, R152, R153: on an empty queue with nothing due, half a bit time passes outside
START: the idle count and the run go on, the driver and the receiver take their samples. R115, R40: the half bit time
that completes a millisecond counts one of uptime and takes one from every running timer, but for a rank settle timer
paused by a holder; any other leaves the view, the board and the slots. In START nothing passes while a reset is applied,
and then uptime and the start-up delay run (R113). The pace is the model's choice (log entries 2 and 22), and
so is the order of one half bit time's commands, the driver's before the receiver's (log entry 20). -/
def Obligations.IdleStepPassesTime : Prop :=
  (∀ s : State, s.pending = [] → s.due = [] → s.stc.station ≠ .start →
    ∃ t, step s = .next t ∧ HalfBitPassed s t ∧ t.txq = s.txq ∧ t.clg = s.clg ∧ t.lpt = s.lpt ∧
      (s.stc.msPhase + 1 < halvesPerMs s.stc.straps.lrate →
        t.stc = { s.stc with msPhase := s.stc.msPhase + 1 } ∧ t.dvu = s.dvu ∧ t.bsu = s.bsu ∧ t.qru = s.qru) ∧
      (halvesPerMs s.stc.straps.lrate ≤ s.stc.msPhase + 1 → MillisecondPassed s t)) ∧
  ∀ s : State, s.pending = [] → s.stc.station = .start →
    ((s.stc.porApplied = true ∨ s.stc.srstApplied = true) → step s = .next s) ∧
    (s.stc.porApplied = false → s.stc.srstApplied = false → ∃ t, step s = .next t ∧
      t.stc.uptime = s.stc.uptime + 1 ∧ TimerTicked s.stc.startUpDelay t.stc.startUpDelay ∧
      t.stc.station = .start ∧ t.stc.straps = s.stc.straps ∧ t.lif = s.lif ∧ t.txq = s.txq ∧ t.clg = s.clg ∧
      t.lpt = s.lpt ∧ t.dvu.records = s.dvu.records ∧ t.bsu.board = s.bsu.board ∧ t.pending = [])

/-! ### Resets and station life -/

/-- R2, R70, R125, R126, R142, R157, R168, R179, R188: the model's state at reset holds the reset values. A power-on
reset returns the whole station to them, the Cause Log included, and leaves SRST_N's level; a station reset returns
the same values but for the Cause Log, and a start that still owes its POWERON record stays a power-on start. SCS_N keeps
its level, and a transaction in progress is cut off (log entry 18). -/
def Obligations.ResetsReturnTheStation : Prop :=
  (ResetApplied State.reset ∧ State.reset.clg.records = [] ∧ State.reset.clg.nextSeq = 0 ∧
    State.reset.stc.startKind = .powerOn ∧ State.reset.pending = [] ∧ State.reset.brstAsserted = true ∧
    State.reset.alertN = .high) ∧
  (∀ s : State, ∃ t, exec .powerOnReset s = .next t ∧ ResetApplied t ∧ t.clg.records = [] ∧ t.clg.nextSeq = 0 ∧
    t.stc.startKind = .powerOn ∧ t.stc.porApplied = true ∧ t.stc.srstApplied = s.stc.srstApplied ∧
    t.lpt.scs = (if s.lpt.scs = .high then .high else .cut) ∧ t.pending = s.pending) ∧
  ∀ s : State, ∃ t, exec .stationReset s = .next t ∧ ResetApplied t ∧ t.clg = s.clg ∧ t.stc.srstApplied = true ∧
    t.stc.porApplied = s.stc.porApplied ∧ t.lpt.scs = (if s.lpt.scs = .high then .high else .cut) ∧
    t.pending = s.pending ∧
    (s.stc.station = .start → s.stc.startKind = .powerOn → t.stc.startKind = .powerOn) ∧
    (s.stc.station ≠ .start → t.stc.startKind = .stationReset)

/-- R113, R114: the start-up delay of 10 ms starts in full when the last applied reset is released. At its end the
straps are sampled, the reset record is appended, the board's inputs and the line are taken as they are, hold-down and
listen-in start, LISTEN is entered and ALERT_N goes low. R108 to R110: what the strap pins are read as, and the intervals,
line rates and scopes that the straps name. -/
def Obligations.StartLastsForTheStartUpDelay : Prop :=
  (∀ s : State, s.stc.station = .start →
    (s.stc.porApplied = true → s.stc.srstApplied = false → exec (.resetRelease .supply) s =
      .next { s with stc := { s.stc with porApplied := false, startUpDelay := .running 10 } }) ∧
    (s.stc.porApplied = false → s.stc.srstApplied = true → exec (.resetRelease .srstN) s =
      .next { s with stc := { s.stc with srstApplied := false, startUpDelay := .running 10 } }) ∧
    (s.stc.porApplied = true → s.stc.srstApplied = true → exec (.resetRelease .supply) s =
      .next { s with stc := { s.stc with porApplied := false } }) ∧
    (s.stc.porApplied = true → s.stc.srstApplied = true → exec (.resetRelease .srstN) s =
      .next { s with stc := { s.stc with srstApplied := false } })) ∧
  (∀ p : StrapPins, StrapsRead p (readStraps p)) ∧ StrapTables ∧
  ∀ (s : State) (p : SampledPins) (c : Straps), c = readStraps p.straps →
    s.stc.station = .start → s.stc.startUpDelay.isRunning = true →
    ∃ t, exec (.startUpDelayExpiry p) s = .next t ∧ t.stc.station = .listen ∧ t.stc.straps = c ∧
      t.stc.listenIn = .running (3 * announcePeriod c.prof) ∧ t.stc.startUpDelay = .stopped ∧
      t.stc.uptime = s.stc.uptime ∧
      t.clg = s.clg.appended (recordOf (if s.stc.startKind = .powerOn then .powerOn else .stnReset) none
        (some c.id) s.dvu.epoch none s.stc.uptime false) ∧
      t.bsu = { s.bsu with fltLatch := p.fltN, band := (if 1200 < p.senseMv then .normal else .low),
                           holdDown := .running (holdDownInterval c.prof) } ∧
      t.lif.lineDominant = p.lineDominant ∧ t.lif.rxErrors = 0 ∧ t.lif.collisions = 0 ∧ t.lif.driveFaults = 0 ∧
      t.alertN = .low ∧ t.txq = s.txq ∧ t.dvu = s.dvu ∧ t.qru = s.qru ∧ t.pending = s.pending

/-- R25, R49, R50, R63, R118, R9, R100: founding at the end of LISTEN: MEMBER with the view as kept, the own record
present and not ready, the announce timer started, the rank settle timer started at a front that is a rank (R40), the
hold limit started by an own hold, the START fault pending with the own rank as a new entry or with that of the entry
it replaces, the release evaluated. -/
def Obligations.FoundingKeepsTheViewAndRequestsStart : Prop :=
  ∀ s : State, s.stc.station = .listen → s.stc.listenIn.isRunning = true → s.txq.Sound → s.txq.inFlight = none →
    ∃ t, exec .listenInExpiry s = .next t ∧ t.stc = { s.stc with station := .member, listenIn := .stopped } ∧
      SameDomain s.dvu t.dvu ∧ t.dvu.announce = .running (announcePeriod s.profile) ∧
      t.dvu.holdLimit = (if s.dvu.holdSet[s.self] then .running (holdLimitInterval s.profile) else s.dvu.holdLimit) ∧
      t.dvu.settle = (match s.dvu.front with
        | .rank _ => .running (settleInterval s.profile)
        | _ => s.dvu.settle) ∧
      t.dvu.gatherTimer = s.dvu.gatherTimer ∧ (∀ i : StationId, i ≠ s.self → t.record i = s.record i) ∧
      t.record s.self = ⟨true, s.rank, t.bsu.board, false, false, 0, s.dvu.epoch, false, s.bsu.budget, s.logPending⟩ ∧
      (s.txq.holds .fault = false → .fault ⟨.start, .domain, s.rank, 0⟩ ∈ t.txq.entries) ∧
      (∀ f, .fault f ∈ s.txq.entries → .fault ⟨.start, .domain, f.senderRank, 0⟩ ∈ t.txq.entries) ∧
      (s.txq.entries.length ≤ 10 → t.qru = s.qru ∧ ∀ e ∈ s.txq.entries, e.key ∈ t.txq.entries.map Entry.key) ∧
      ReleaseEvaluated s.bsu t ∧
      t.lif = s.lif ∧ t.clg = s.clg ∧ t.lpt = s.lpt ∧ t.pending = s.pending

/-- R121, R93, R116: the quiet timer's expiry: LISTEN with a full listen-in; a running board returns to HELD and its
waiting READY is cancelled. -/
def Obligations.QuietLineLeadsToListen : Prop :=
  ∀ s : State, s.stc.station = .isolated → s.stc.quiet.isRunning = true →
    ∃ t, exec .quietTimerExpiry s = .next t ∧
      t.stc = { s.stc with
        station := .listen, quiet := .stopped, listenIn := .running (3 * announcePeriod s.profile) } ∧
      BoardReturned s.bsu s.profile t.bsu ∧
      t.txq = (if boardRunning s.bsu.board then s.txq.cancel .ready else s.txq) ∧
      t.dvu = s.dvu ∧ t.lif = s.lif ∧ t.qru = s.qru ∧ t.clg = s.clg ∧ t.lpt = s.lpt ∧ t.pending = s.pending

/-- R155, R120, R121, R153, R161: a run that reaches 4096 T isolates a station in LISTEN or MEMBER, with detail 0 and the quiet
timer stopped, the entry in flight kept but for what was remembered beside it, and a waiting READY cancelled with a board
that returns to HELD; in ISOLATED and BLOCKED no record is appended and the station state stays. An attempt is driven no
more; a break of the station's own goes on (R153), which is the model's reading of R153 beside R120 (log entry 10), and the
length that the command gives the run is the model's (log entry 16). -/
def Obligations.StuckLineIsolates : Prop :=
  ∀ s : State, s.stc.station ≠ .start → s.lif.lineDominant = true → s.lif.runClass ≠ .stuck →
    ∃ t, exec .stuckLine s = .next t ∧ t.lif.runLength = 8192 ∧ t.lif.runClass = .stuck ∧ t.lif.lineDominant = true ∧
      (s.stc.station = .listen ∨ s.stc.station = .member →
        t.stc.station = .isolated ∧ t.stc.quiet = .stopped ∧
        t.lif.drive = (if s.lif.drive.isFrame then .none else s.lif.drive) ∧ t.lif.mismatch = false ∧
        t.txq.inFlight = none ∧
        (∃ q, AttemptFailed s.txq q ∧ t.txq =
          if s.stc.straps.isoPol = .low ∧ boardRunning s.bsu.board = true then
            { q with entries := q.entries.filter (fun e => e.key ≠ .ready) } else q) ∧
        t.clg = s.clg.appended (recordOf .isolated none (some s.self) s.dvu.epoch none s.stc.uptime false) ∧
        ViewFrozen s.dvu t.dvu ∧ (s.stc.straps.isoPol = .low → BoardReturned s.bsu s.profile t.bsu) ∧
        (s.stc.straps.isoPol = .high → t.bsu = s.bsu)) ∧
      (s.stc.station = .isolated ∨ s.stc.station = .blocked →
        t.stc.station = s.stc.station ∧ t.clg = s.clg ∧ t.dvu = s.dvu ∧ t.bsu = s.bsu) ∧
      t.qru = s.qru ∧ t.pending = s.pending ∧ t.stc.straps = s.stc.straps

/-- R147, R148, R153, R161, R123: a collision ends the attempt, whose entry stays but for what was remembered beside it; the
first leaves the station as it is, the second of a MEMBER declares a duplicate identity. So does a valid frame with
the own ID at a station that is not sending, one that has met a mismatch included; a collision that the end of its run
has settled is reported before any valid frame arrives, whatever the order of the commands (log entries 5, 20). A break
being driven goes on (R153), which is the model's reading of R153 beside R123 (log entry 10). -/
def Obligations.DuplicateIdentityBlocks : Prop :=
  (∀ s : State, s.stc.station = .member → s.lif.drive.isFrame = true ∨ s.lif.mismatch = true →
    s.lif.runClass = .ordinary → s.lif.runLength ≤ Config.longHalves →
    (s.lif.collisions = 0 → ∃ q, AttemptFailed s.txq q ∧ exec .collisionAfterArbitration s = .next { s with
      lif := { s.lif with
        drive := if s.lif.drive.isFrame then .none else s.lif.drive, mismatch := false, collisions := 1 }
      txq := q }) ∧
    (s.lif.collisions ≠ 0 → ∃ t, exec .collisionAfterArbitration s = .next t ∧ EnteredBlocked s t ∧
      t.lif.collisions = 2)) ∧
  (∀ (s : State) (c : Instr) (f : Frame), c.frame? = some f → frameValid f = true → s.stc.station = .member →
    (∀ g n, s.lif.drive ≠ .frame g n) → f.sender = s.self → ∃ t, exec c s = .next t ∧ EnteredBlocked s t) ∧
  ∀ (s : State) (c : Instr) (f : Frame), c.frame? = some f → frameValid f = true → s.stc.station ≠ .start →
    CollisionFirst c s

/-! ### The view's timers -/

/-- R11, R19, R20: an announce expiry restarts the timer and ages every present record but the own one, up to 4. With
room for all that it may ask for, an ANNOUNCE is pending after it, no entry is lost, and a lapse naming a member whose
age has come to 4, and no other, is newly pending. R20, R31, R100, R158: whatever the queue has room for, the requests are
the ANNOUNCE, a lapse for each silent member in increasing order, the RESUME of an expired hold limit and the ADVANCE of a
condition that holds, each only where its key is not held; their order among classes is the model's choice (log
entry 13). -/
def Obligations.AnnounceExpiryAgesAndLapses : Prop :=
  (∀ s : State, s.stc.station = .member → s.dvu.announce.isRunning = true →
    ∃ t, exec .announceTimerExpiry s = .next t ∧ t.dvu.announce = .running (announcePeriod s.profile) ∧
      (∀ i : StationId, i ≠ s.self → (s.record i).present = true →
        (t.record i).silence.val = min 4 ((s.record i).silence.val + 1) ∧
        t.record i = { s.record i with silence := (t.record i).silence }) ∧
      (∀ i : StationId, (s.record i).present = false → t.record i = s.record i) ∧ t.record s.self = s.record s.self ∧
      SameDomain s.dvu t.dvu ∧ t.dvu.gatherTimer = s.dvu.gatherTimer ∧ t.dvu.settle = s.dvu.settle ∧
      t.dvu.holdLimit = s.dvu.holdLimit ∧
      (s.txq.entries.length ≤ 8 → (∀ i j : StationId, i ≠ s.self → j ≠ s.self → (s.record i).present = true →
          (s.record j).present = true → 3 ≤ (s.record i).silence.val → 3 ≤ (s.record j).silence.val → i = j) →
        .announce ∈ t.txq.entries ∧ t.qru = s.qru ∧ ∀ e ∈ s.txq.entries, e.key ∈ t.txq.entries.map Entry.key) ∧
      t.stc = s.stc ∧ t.lif = s.lif ∧ t.bsu = s.bsu ∧ t.clg = s.clg ∧ t.lpt = s.lpt ∧ t.pending = s.pending) ∧
  (∀ (s t : State) (i : StationId), s.stc.station = .member → s.dvu.announce.isRunning = true →
    s.txq.entries.length ≤ 8 → i ≠ s.self → (s.record i).present = true → 3 ≤ (s.record i).silence.val →
    (∀ j : StationId, j ≠ s.self → (s.record j).present = true → 3 ≤ (s.record j).silence.val → j = i) →
    exec .announceTimerExpiry s = .next t →
      .memberSilent i ∈ t.txq.entries ∧ ∀ j, j ≠ i → .memberSilent j ∈ t.txq.entries → .memberSilent j ∈ s.txq.entries) ∧
  ∀ (s : State) (l : List Entry), s.stc.station = .member → s.dvu.announce.isRunning = true →
    l = s.txq.entries ++ (if s.txq.holds .announce then [] else [.announce]) ++
      ((List.finRange 32).filter fun i => (s.record i).present ∧ i ≠ s.self ∧ 3 ≤ (s.record i).silence.val ∧
        s.txq.holds (.memberSilent i) = false).map .memberSilent ++
      (if s.dvu.holdLimit = .expired ∧ s.txq.holds .hold = false then [.hold .resume] else []) ++
      (if s.advanceCondition then [.advance s.dvu.front s.dvu.nextFront] else []) →
    l.length ≤ 12 → ∃ t, exec .announceTimerExpiry s = .next t ∧ t.txq.entries = l ∧ t.qru = s.qru

/-- R36, R6, R100: the gather timer's expiry sets gather-expired; with the front at NONE, no holder and no ADVANCE
pending, it requests ADVANCE(NONE, the next front). The hold limit's expiry asks for RESUME and stays expired. -/
def Obligations.GatherAndHoldLimitExpiries : Prop :=
  (∀ s : State, s.stc.station = .member → s.dvu.gatherTimer.isRunning = true →
    ∃ t, exec .gatherTimerExpiry s = .next t ∧
      t.dvu = { s.dvu with gatherTimer := .stopped, gatherExpired := true } ∧
      (s.dvu.front = .none → (∀ i : StationId, s.dvu.holdSet[i] = false) → s.txq.holds .advance = false →
        s.txq.entries.length < 12 →
        t.txq = { s.txq with entries := s.txq.entries ++ [.advance .none s.dvu.nextFront] } ∧ t.qru = s.qru) ∧
      ((∃ i : StationId, s.dvu.holdSet[i] = true) → t.txq = s.txq ∧ t.qru = s.qru) ∧
      t.stc = s.stc ∧ t.lif = s.lif ∧ t.bsu = s.bsu ∧ t.clg = s.clg ∧ t.lpt = s.lpt ∧ t.pending = s.pending) ∧
  ∀ s : State, s.stc.station = .member → s.dvu.holdLimit.isRunning = true →
    ∃ t, exec .holdLimitExpiry s = .next t ∧ t.dvu = { s.dvu with holdLimit := .expired } ∧
      t.txq = (s.txq.request (.hold .resume)).1 ∧ (s.txq.entries.length < 12 → t.qru = s.qru) ∧
      (s.txq.entries.length < 12 → s.txq.inFlight ≠ some .hold → .hold .resume ∈ t.txq.entries) ∧
      t.stc = s.stc ∧ t.lif = s.lif ∧ t.bsu = s.bsu ∧ t.clg = s.clg ∧ t.lpt = s.lpt ∧ t.pending = s.pending

/-- R40, R41, R48: the rank settle expiry restarts the timer; while a record blocks, a LAPSE(RANK-TIMEOUT) is
requested under LATEACT = DROP, and a LATE record is appended and a FAULT(LATE) to the lowest blocking rank requested
under LATEACT = FAULT; while none blocks, nothing else. -/
def Obligations.SettleExpiryActsOnABlockingRecord : Prop :=
  ∀ (s : State) (k : Rank), s.stc.station = .member → s.dvu.settle.isRunning = true →
    (∀ i : StationId, s.dvu.holdSet[i] = false) → s.dvu.front = .rank k →
    ∃ t, exec .rankSettleExpiry s = .next t ∧ SameDomain s.dvu t.dvu ∧
      t.dvu.settle = .running (settleInterval s.profile) ∧ t.dvu.announce = s.dvu.announce ∧
      t.dvu.gatherTimer = s.dvu.gatherTimer ∧ t.dvu.holdLimit = s.dvu.holdLimit ∧
      (s.dvu.someBlocking = false → t = { s with dvu := t.dvu } ∧ t.dvu.records = s.dvu.records) ∧
      (∀ b, s.dvu.lowestBlocking = some b → s.stc.straps.lateAct = .low → t.clg = s.clg ∧
        t.txq = (s.txq.request (.rankTimeout k)).1 ∧ t.dvu.records = s.dvu.records) ∧
      (∀ b, s.dvu.lowestBlocking = some b → s.stc.straps.lateAct = .high →
        t.clg = s.clg.appended (recordOf .late (some (if b = 0 then .domain else .rank)) (some s.self) s.dvu.epoch
          (some b) s.stc.uptime false) ∧
        t.txq = (s.txq.request (.fault ⟨.late, if b = 0 then .domain else .rank, s.rank, b⟩)).1 ∧
        OnlyOwnFollows s t) ∧
      (s.txq.entries.length < 12 → t.qru = s.qru) ∧
      t.stc = s.stc ∧ t.lif = s.lif ∧ t.bsu = s.bsu ∧ t.pending = s.pending

/-! ### The board -/

/-- R72, R87, R71: the hold-down expires and stays expired; the recovery interval ends in HELD with the hold-down not
restarted. At both the release is evaluated. -/
def Obligations.HoldDownAndRecoveryEndInARelease : Prop :=
  (∀ s : State, s.bsu.holdDown.isRunning = true →
    ∃ t, exec .holdDownExpiry s = .next t ∧ ReleaseEvaluated { s.bsu with holdDown := .expired } t ∧
      SameDomain s.dvu t.dvu ∧ SameTimers s.dvu t.dvu ∧ (∀ i : StationId, i ≠ s.self → t.record i = s.record i) ∧
      (s.txq.entries.length < 12 → t.qru = s.qru ∧ ∀ e ∈ s.txq.entries, e ∈ t.txq.entries) ∧
      t.stc = s.stc ∧ t.lif = s.lif ∧ t.clg = s.clg ∧ t.lpt = s.lpt ∧ t.pending = s.pending) ∧
  ∀ s : State, s.bsu.board = .recover → s.bsu.recovery.isRunning = true →
    ∃ t, exec .recoveryExpiry s = .next t ∧
      ReleaseEvaluated { s.bsu with board := .held, recovery := .stopped } t ∧
      SameDomain s.dvu t.dvu ∧ SameTimers s.dvu t.dvu ∧ (∀ i : StationId, i ≠ s.self → t.record i = s.record i) ∧
      (s.txq.entries.length < 12 → t.qru = s.qru ∧ ∀ e ∈ s.txq.entries, e ∈ t.txq.entries) ∧
      t.stc = s.stc ∧ t.lif = s.lif ∧ t.clg = s.clg ∧ t.lpt = s.lpt ∧ t.pending = s.pending

/-- R79, R80, R81, R83, R84, R85: a watchdog expiry, a fall of FLT_N and the band's fall to LOW each complete as the
detection of a local fault of a running board, with the scope of the CONT strap: the board contained, the records
appended, a waiting READY cancelled and FAULT(cause, scope, own rank, rewind rank) asked for. -/
def Obligations.RunningBoardFaultsAreContained : Prop :=
  ∀ s : State, s.txq.Sound → boardRunning s.bsu.board = true → s.bsu.budget ≠ 3 →
    (s.bsu.watchdog.isArmed = true →
      ∃ t, exec .watchdogExpiry s = .next t ∧ FaultDetected s t .wdog (contScope s.stc.straps.cont)) ∧
    (s.stc.station ≠ .start → s.bsu.fltLatch = .high →
      ∃ t, exec .fltNFall s = .next t ∧
        FaultDetected { s with bsu := { s.bsu with fltLatch := .low } } t .boardFlt (contScope s.stc.straps.cont)) ∧
    (s.stc.station ≠ .start → s.bsu.band = .normal →
      ∃ t, exec .supplyBandLow s = .next t ∧
        FaultDetected { s with bsu := { s.bsu with band := .low } } t .supply (contScope s.stc.straps.cont))

/-- R80 to R83: on a board that does not run, a fall of FLT_N moves the latch alone, the band's fall moves the band alone.
The band's rise to NORMAL, and under FLTMODE = LEVEL the rise of FLT_N, evaluate the release. By R79 no watchdog expires
in DISARMED; that the command then changes nothing is the model's choice (log entry 4). -/
def Obligations.InputsMoveLatchAndBand : Prop :=
  (∀ s : State, boardRunning s.bsu.board = false →
    (s.bsu.watchdog = .disarmed → exec .watchdogExpiry s = .next s) ∧
    (s.stc.station ≠ .start → s.bsu.fltLatch = .high →
      exec .fltNFall s = .next { s with bsu := { s.bsu with fltLatch := .low } }) ∧
    (s.stc.station ≠ .start → s.bsu.band = .normal →
      exec .supplyBandLow s = .next { s with bsu := { s.bsu with band := .low } })) ∧
  ∀ s : State, s.stc.station ≠ .start →
    (s.bsu.fltLatch = .low → s.stc.straps.fltMode = .low →
      exec .fltNRise s = .next { s with bsu := { s.bsu with fltLatch := .high } }) ∧
    (s.bsu.fltLatch = .low → s.stc.straps.fltMode = .high →
      ∃ t, exec .fltNRise s = .next t ∧ ReleaseEvaluated { s.bsu with fltLatch := .high } t ∧ t.clg = s.clg ∧
        (s.txq.entries.length < 12 → t.qru = s.qru ∧ ∀ e ∈ s.txq.entries, e ∈ t.txq.entries) ∧ t.lpt = s.lpt ∧
        (∀ i : StationId, i ≠ s.self → t.record i = s.record i) ∧
        SameDomain s.dvu t.dvu ∧ SameTimers s.dvu t.dvu ∧ t.stc = s.stc ∧ t.lif = s.lif ∧ t.pending = s.pending) ∧
    (s.bsu.band = .low →
      ∃ t, exec .supplyBandNormal s = .next t ∧ ReleaseEvaluated { s.bsu with band := .normal } t ∧ t.clg = s.clg ∧
        (s.txq.entries.length < 12 → t.qru = s.qru ∧ ∀ e ∈ s.txq.entries, e ∈ t.txq.entries) ∧ t.lpt = s.lpt ∧
        (∀ i : StationId, i ≠ s.self → t.record i = s.record i) ∧
        SameDomain s.dvu t.dvu ∧ SameTimers s.dvu t.dvu ∧ t.stc = s.stc ∧ t.lif = s.lif ∧ t.pending = s.pending)

/-- R74, R75, R163: a rise of BRDY in RUNUP: READY, the stable interval started, a READY frame with the own rank asked
for, the own ready flag still clear. A fall in READY: RUNUP with the watchdog as it was, the stable interval stopped,
a waiting READY cancelled, the own ready flag cleared. Every other edge is ignored; a rise in READY, which R74 says cannot
occur, changes nothing by the model's choice (log entry 4). -/
def Obligations.BrdyEdgesMoveTheBoard : Prop :=
  (∀ s : State, (s.bsu.board = .runup → ∃ t, exec .brdyRise s = .next t ∧
      t.bsu = { s.bsu with board := .ready, stable := .running (stableInterval s.profile) } ∧
      (s.txq.holds .ready = false → s.txq.entries.length ≤ 10 →
        .ready s.rank ∈ t.txq.entries ∧ t.qru = s.qru) ∧
      OnlyOwnFollows s t ∧ SameDomain s.dvu t.dvu ∧ SameTimers s.dvu t.dvu ∧
      t.stc = s.stc ∧ t.lif = s.lif ∧ t.clg = s.clg ∧ t.lpt = s.lpt ∧ t.pending = s.pending) ∧
    (s.bsu.board ≠ .runup → exec .brdyRise s = .next s)) ∧
  ∀ s : State, (s.bsu.board = .ready → ∃ t, exec .brdyFall s = .next t ∧
      t.bsu = { s.bsu with board := .runup, stable := .stopped } ∧
      (s.txq.inFlight ≠ some .ready → ∀ r, .ready r ∉ t.txq.entries) ∧
      (s.txq.inFlight = some .ready → t.txq.remembered = some .cancellation) ∧
      (s.stc.station = .member → (t.record s.self).ready = false ∧ (t.record s.self).board = .runup) ∧
      (s.txq.entries.length < 12 → t.qru = s.qru) ∧
      OnlyOwnFollows s t ∧ SameDomain s.dvu t.dvu ∧ SameTimers s.dvu t.dvu ∧
      t.stc = s.stc ∧ t.lif = s.lif ∧ t.clg = s.clg ∧ t.lpt = s.lpt ∧ t.pending = s.pending) ∧
    (s.bsu.board ≠ .ready → exec .brdyFall s = .next s)

/-- R78, R88, R9: a rise of KICK restarts an armed watchdog at the watchdog period and is ignored by a disarmed one.
The stable interval's expiry sets the budget count to 0 and does not restart. -/
def Obligations.KickAndStableInterval : Prop :=
  (∀ s : State, (s.bsu.watchdog ≠ .disarmed →
      exec .kick s = .next { s with bsu := { s.bsu with watchdog := .running (watchdogPeriod s.profile) } }) ∧
    (s.bsu.watchdog = .disarmed → exec .kick s = .next s)) ∧
  ∀ s : State, s.bsu.stable.isRunning = true →
    ∃ t, exec .stableIntervalExpiry s = .next t ∧ t.bsu = { s.bsu with stable := .stopped, budget := 0 } ∧
      OnlyOwnFollows s t ∧ SameDomain s.dvu t.dvu ∧ SameTimers s.dvu t.dvu ∧
      t.stc = s.stc ∧ t.lif = s.lif ∧ t.txq = s.txq ∧ t.qru = s.qru ∧ t.clg = s.clg ∧ t.lpt = s.lpt ∧
      t.pending = s.pending

/-- R95, R153, R161: EMRG_N's fall: not observed in START, recorded alone in ISOLATED, recorded and answered by a
break in LISTEN, MEMBER and BLOCKED, ignored while a break is driven; an attempt being sent is cut and keeps its entry
but for what was remembered beside it, and a mismatch that awaits its class goes on awaiting it (R147). At its end the
break stops driving. What has come about on the line before the edge takes effect first: a limit of the run (R152,
R155, log entry 16), a collision (R147), the end of a break's 32 T, whatever the order of the commands (log entry 20).
-/
def Obligations.EmergencyIsRecordedAndBroken : Prop :=
  ∀ s : State,
    (s.stc.station = .start → exec .emrgNFall s = .next s) ∧
    (s.stc.station ≠ .start → LimitsFirst .emrgNFall s ∧ CollisionFirst .emrgNFall s ∧ BreakFirst .emrgNFall s) ∧
    (s.stc.station ≠ .start → LimitsTold s.lif → CollisionTold s.lif → (∃ n, s.lif.drive = .brk n ∧ n < 64) →
      exec .emrgNFall s = .next s) ∧
    (s.stc.station ≠ .start → LimitsTold s.lif → CollisionTold s.lif → (∀ n, s.lif.drive ≠ .brk n) →
      ∃ t, exec .emrgNFall s = .next t ∧
        t.clg = s.clg.appended (recordOf .emrg none (some s.self) s.dvu.epoch none s.stc.uptime false) ∧
        (s.stc.station = .isolated → t.lif = s.lif ∧ t.txq = s.txq) ∧
        (s.stc.station ≠ .isolated → t.lif.drive = .brk 0 ∧
          (s.lif.drive.isFrame = true → t.lif.mismatch = false ∧ AttemptFailed s.txq t.txq) ∧
          (s.lif.drive.isFrame = false → t.lif.mismatch = s.lif.mismatch ∧ t.txq = s.txq ∧
            t.lif.receive = s.lif.receive) ∧
          t.lif.lineDominant = s.lif.lineDominant ∧ t.lif.runLength = s.lif.runLength ∧ t.lif.idle = s.lif.idle ∧
          t.lif.collisions = s.lif.collisions ∧ t.lif.driveFaults = s.lif.driveFaults ∧
          t.lif.rxErrors = s.lif.rxErrors) ∧
        OnlyOwnFollows s t ∧ SameDomain s.dvu t.dvu ∧ SameTimers s.dvu t.dvu ∧
        t.stc = s.stc ∧ t.bsu = s.bsu ∧ t.qru = s.qru ∧ t.pending = s.pending) ∧
    (∀ n, s.lif.drive = .brk n →
      exec .breakDriveEnd s = .next { s with lif := { s.lif with drive := .none } })

/-! ### The line -/

/-- R159, R144, R146, R130, R131: in MEMBER the offered entry is, of those waiting, the oldest of the most urgent class. At
a bit boundary with 12 T of idle line, or joining an edge, an attempt takes it in flight and its frame is fixed: the
own ID, the epoch, the entry's fields, and for an ANNOUNCE the view as it stands. One attempt begins in a gap: the next
waits for the next gap (R146, R161), which comes as the idle count starts from 0 anew. How long an edge may be joined
(`joinWindow`) is the model's reading of R144 (log entry 15), and which gap is the next (`gapTaken`) is its reading of R146
and R143 (log entry 24). -/
def Obligations.AttemptsSendTheMostUrgentEntry : Prop :=
  (∀ s : State,
    (s.offered = none ↔ s.stc.station ≠ .member ∨ ∀ e ∈ s.txq.entries, s.txq.inFlight = some e.key) ∧
    ∀ e, s.offered = some e → ∃ older younger, s.txq.entries.filter (fun x => s.txq.inFlight ≠ some x.key) =
      older ++ e :: younger ∧ (∀ x ∈ older, e.urgency < x.urgency) ∧ ∀ x ∈ younger, e.urgency ≤ x.urgency) ∧
  ∀ s : State, (s.offered = none → exec .attemptStart s = .next s) ∧
    (s.lif.gapTaken = true → s.lif.joinWindow = false → exec .attemptStart s = .next s) ∧
    ∀ e, s.offered = some e → s.lif.drive = .none → s.lif.mismatch = false →
      ((s.lif.lineDominant = false ∧ s.lif.gapTaken = false ∧ 24 ≤ s.lif.idle ∧ s.lif.idle % 2 = 0) ∨
        s.lif.joinWindow = true) →
      ∃ body, exec .attemptStart s = .next { s with
          txq := { s.txq with inFlight := some e.key, remembered := none }
          lif := { s.lif with
            drive := .frame ⟨s.stc.straps.id, s.dvu.epoch, body⟩ 0, joinWindow := false, gapTaken := true } } ∧
        match e with
        | .fault f => body = .fault f
        | .rankTimeout k => body = .rankTimeout k
        | .memberSilent i => body = .memberSilent i
        | .advance old new => body = .advance old new
        | .hold a => body = .hold a
        | .ready r => body = .ready r
        | .query target item tag => body = .query target item tag
        | .reply r => body = .reply r
        | .announce => body = .announce
            { senderRank := s.stc.straps.rank, board := s.bsu.board, budget := s.bsu.budget, front := s.dvu.front
              base := s.dvu.base, gather := s.dvu.gather, holding := s.dvu.holdSet[s.self]
              logPending := !s.clg.records.isEmpty }

/-- R145, R161, R51, R96: a lost attempt ends with its entry no longer in flight, the two counts unchanged. The entry
stays as it is, or leaves by a remembered cancellation, or takes a remembered action or a remembered FAULT. A run that
has passed 9 T by then has cut the attempt first (R152, R150, log entry 16). -/
def Obligations.LostAttemptSettlesItsEntry : Prop :=
  (∀ s : State, s.stc.station ≠ .start → LimitsFirst .lostArbitration s) ∧
  ∀ (s : State) (k : Key), LimitsTold s.lif → s.lif.drive.isFrame = true → s.txq.inFlight = some k →
    ∃ entries, exec .lostArbitration s =
        .next { s with lif := { s.lif with drive := .none, mismatch := false }, txq := ⟨entries, none, none⟩ } ∧
      (s.txq.remembered = none → entries = s.txq.entries) ∧
      (s.txq.remembered = some .cancellation → entries = s.txq.entries.filter (fun e => e.key ≠ k)) ∧
      (∀ a, k = .hold → s.txq.remembered = some (.hold a) →
        entries = s.txq.entries.map (fun e => if e.key = .hold then .hold a else e)) ∧
      (∀ g, k = .fault → s.txq.remembered = some (.fault g) → entries = s.txq.entries.map (fun e => match e with
        | .fault f => .fault (mergeFault f g)
        | e => e))

/-- R149, R150, R161, R120: a drive fault ends the attempt or the break and counts one, an attempt's entry kept but for
what was remembered beside it; the frame an attempt leaves is not recorded against its sender, and a mismatch that awaits
its class through a break goes on awaiting it (R147). The third in a row isolates a station in LISTEN or MEMBER, with
detail 1 in its record, and in BLOCKED clears the count. A run that has passed 9 T by then has cut the attempt first (R152,
log entry 16). Where nothing is driven no drive fault can occur; that the command then changes nothing is the model's
choice (log entry 4). -/
def Obligations.DriveFaultsAreCountedToThree : Prop :=
  (∀ s : State, s.stc.station ≠ .start → LimitsFirst .driveFault s) ∧
  ∀ s : State, LimitsTold s.lif → (s.lif.drive = .none → exec .driveFault s = .next s) ∧
    (s.lif.drive ≠ .none → s.lif.driveFaults.val < 2 → ∃ t, exec .driveFault s = .next t ∧
      t = { s with lif := t.lif, txq := t.txq } ∧
      t.lif = { s.lif with
        drive := .none, mismatch := t.lif.mismatch, driveFaults := t.lif.driveFaults, receive := t.lif.receive } ∧
      t.lif.driveFaults.val = s.lif.driveFaults.val + 1 ∧
      (s.lif.drive.isFrame = false →
        t.lif.receive = s.lif.receive ∧ t.lif.mismatch = s.lif.mismatch ∧ t.txq = s.txq) ∧
      (s.lif.drive.isFrame = true → t.lif.mismatch = false ∧ AttemptFailed s.txq t.txq) ∧
      (s.lif.drive.isFrame = true → s.lif.receive = .outside → t.lif.receive = .outside) ∧
      (∀ r, s.lif.drive.isFrame = true → s.lif.receive = .inFrame r →
        t.lif.receive = .inFrame { r with exempt := true })) ∧
    (s.lif.drive ≠ .none → s.lif.driveFaults = 2 → s.stc.station = .listen ∨ s.stc.station = .member →
      ∃ t, exec .driveFault s = .next t ∧ EnteredIsolated s t true) ∧
    (s.lif.drive ≠ .none → s.lif.driveFaults = 2 → s.stc.station = .blocked →
      ∃ t, exec .driveFault s = .next t ∧ t.lif.drive = .none ∧ t.lif.driveFaults = 0 ∧ t.stc = s.stc ∧ t.clg = s.clg ∧
        (s.lif.drive.isFrame = true → t.lif.mismatch = false ∧ AttemptFailed s.txq t.txq) ∧
        (s.lif.drive.isFrame = false → t.lif.mismatch = s.lif.mismatch ∧ t.txq = s.txq) ∧
        t.dvu = s.dvu ∧ t.bsu = s.bsu ∧ t.qru = s.qru ∧ t.lpt = s.lpt)

/-- R141, R143, R144, R152, R154, R155, R121: a falling edge begins a run of length 0; at an idle count of at least
11.5 T it opens a frame, unless the station drives a break; in the half bit before a boundary at which an attempt
would begin it may be joined (log entries 15, 24). Between two characters of a frame the edge begins the next one; a
character that runs is left. A collision whose run has ended is reported, and a break whose 32 T are over ends (R153),
before another run begins (log entry 20). A mismatch in a run that ends at 9 T or less is a collision, reported at the
end (R147). A run that ends at 9 T or less is ordinary; a longer one starts the quiet timer of an isolated station;
from 24 T to below 4096 T it is a line break, which restarts the listen-in of a station in LISTEN; a stuck line that
ends is no break. A run that ends past 9 T, or at 4096 T, before it has been told has the effects of LONG_RUN_START,
or of STUCK_LINE, first (log entry 16). -/
def Obligations.RunsBeginAndAreClassified : Prop :=
  (∀ s : State, s.stc.station ≠ .start → s.lif.lineDominant = false →
    (CollisionTold s.lif → BreakTold s.lif →
      ∃ l, exec .dominantRunStart s = .next { s with lif := l } ∧ l.lineDominant = true ∧ l.runLength = 0 ∧
        l.runClass = .ordinary ∧ l.idle = 0 ∧ l.drive = s.lif.drive ∧ l.mismatch = false ∧
        l.collisions = s.lif.collisions ∧ l.driveFaults = s.lif.driveFaults ∧ l.rxErrors = s.lif.rxErrors ∧
        (s.lif.receive = .outside → s.lif.drive.isBreak = false → 23 ≤ s.lif.idle →
          l.receive = .inFrame ⟨[], some 0, 0, 0, false⟩) ∧
        (s.lif.receive = .outside → s.lif.drive.isBreak = true ∨ s.lif.idle < 23 → l.receive = .outside) ∧
        (∀ r, s.lif.receive = .inFrame r → r.phase = none → l.receive = .inFrame { r with phase := some 0 }) ∧
        (∀ r, s.lif.receive = .inFrame r → r.phase ≠ none → l.receive = .inFrame r) ∧
        l.gapTaken = false ∧ (l.joinWindow = true ↔ s.offered.isSome = true ∧ s.lif.drive = .none ∧
          s.lif.gapTaken = false ∧ 23 ≤ s.lif.idle ∧ s.lif.idle % 2 = 1)) ∧
    CollisionFirst .dominantRunStart s ∧ BreakFirst .dominantRunStart s) ∧
  ∀ s : State, s.stc.station ≠ .start → s.lif.lineDominant = true →
    LimitsFirst .dominantRunEnd s ∧
    (s.lif.runLength ≤ 18 → s.lif.mismatch = true → exec .dominantRunEnd s =
      exec .collisionAfterArbitration { s with lif := { s.lif with
        lineDominant := false, runLength := 0, runClass := .ordinary, idle := 0, joinWindow := false, gapTaken := false } }) ∧
    ((s.stc.station ≠ .member ∨ s.lif.runLength < 48 ∨ 8192 ≤ s.lif.runLength) →
      LimitsTold s.lif → (s.lif.runLength ≤ 18 → s.lif.mismatch = false) →
      exec .dominantRunEnd s = .next { s with
        lif := { s.lif with
          lineDominant := false, runLength := 0, runClass := .ordinary, idle := 0, joinWindow := false, gapTaken := false }
        stc := { s.stc with
          quiet := if s.stc.station = .isolated ∧ 18 < s.lif.runLength then .running (announcePeriod s.profile)
            else s.stc.quiet
          listenIn := if s.stc.station = .listen ∧ 48 ≤ s.lif.runLength ∧ s.lif.runLength < 8192 then
            .running (3 * announcePeriod s.profile) else s.stc.listenIn } })

/-- R152, R147, R150, R151, R161, R121: a run passes 9 T: an attempt being sent or awaiting its class is cut, both
counts unchanged, its entry kept but for what was remembered beside it, and its frame is no reception error; any other
frame in reception is discarded as one error, saturating at 65535, unless it is exempt; the quiet timer of an isolated
station stops. -/
def Obligations.LongRunCutsAndDiscards : Prop :=
  ∀ s : State, s.stc.station ≠ .start → s.lif.lineDominant = true → s.lif.runClass = .ordinary →
    ∃ t, exec .longRunStart s = .next t ∧ t.lif.runClass = .long ∧ 18 < t.lif.runLength ∧ t.lif.lineDominant = true ∧
      t.lif.receive = .outside ∧ t.lif.collisions = s.lif.collisions ∧ t.lif.driveFaults = s.lif.driveFaults ∧
      (s.lif.drive.isFrame = true ∨ s.lif.mismatch = true → t.lif.rxErrors = s.lif.rxErrors ∧
        AttemptFailed s.txq t.txq) ∧
      t.lif.drive = (if s.lif.drive.isFrame then .none else s.lif.drive) ∧ t.lif.mismatch = false ∧
      (s.lif.drive.isFrame = false → s.lif.mismatch = false → t.txq = s.txq) ∧
      (s.lif.drive.isFrame = false → s.lif.mismatch = false → ∀ r, s.lif.receive = .inFrame r → t.lif.rxErrors =
        if r.exempt = true ∨ s.lif.rxErrors = 65535 then s.lif.rxErrors else s.lif.rxErrors + 1) ∧
      (s.lif.receive = .outside → t.lif.rxErrors = s.lif.rxErrors) ∧
      t.stc = { s.stc with quiet := if s.stc.station = .isolated then .stopped else s.stc.quiet } ∧
      t.dvu = s.dvu ∧ t.bsu = s.bsu ∧ t.qru = s.qru ∧ t.clg = s.clg ∧ t.lpt = s.lpt ∧ t.pending = s.pending

/-- R67, R154, R55 to R59, R164: at a MEMBER a line break, told long before (R152), rewinds to rank 0 with cause EMRG and
gather clear; the record has scope DOMAIN, no origin, the new epoch and base rank 0; the queue is purged and keeps every
other entry. -/
def Obligations.LineBreakRewindsAMember : Prop :=
  ∀ s : State, s.stc.station = .member → ViewSound s → s.txq.inFlight = none → s.lif.lineDominant = true →
    48 ≤ s.lif.runLength → s.lif.runLength < 8192 → s.lif.runClass ≠ .ordinary →
    ∃ t, exec .dominantRunEnd s = .next t ∧ Rewound s t 0 false ∧ QueuePurged s t 0 ∧
      (s.txq.entries.length < 12 → t.qru = s.qru) ∧
      t.clg = s.clg.appended (recordOf .emrg (some .domain) none (epochSucc s.dvu.epoch) (some 0) s.stc.uptime false) ∧
      t.lif = { s.lif with lineDominant := false, runLength := 0, runClass := .ordinary, idle := 0,
                           joinWindow := false, gapTaken := false } ∧ t.pending = s.pending

/-- R150, R151, R143, R147: outside START, at a station that is not sending or that has met a mismatch, a truncation and
each of the reception errors discard the frame in reception and count one error, saturating at 65535, unless the frame is
exempt; outside a frame nothing happens. A sender finds no error in its own frame, and in START nothing is received
(R156). A run that has passed 9 T by then has first cut the attempt, or discarded the frame (R152, log entry 16). -/
def Obligations.ReceptionErrorsDiscardTheFrame : Prop :=
  ∀ (s : State) (c : Instr), (c = .truncation ∨ ∃ k, c = .receptionError k) →
    (s.stc.station = .start → exec c s = .next s) ∧ (s.stc.station ≠ .start → LimitsFirst c s) ∧
    (LimitsTold s.lif → (∃ f n, s.lif.drive = .frame f n) ∨ s.lif.receive = .outside → exec c s = .next s) ∧
    (∀ r, s.stc.station ≠ .start → LimitsTold s.lif → (∀ f n, s.lif.drive ≠ .frame f n) → s.lif.receive = .inFrame r →
      exec c s = .next { s with lif := { s.lif with
        receive := .outside, idle := 0, gapTaken := false
        rxErrors := if r.exempt = true ∨ s.lif.rxErrors = 65535 then s.lif.rxErrors else s.lif.rxErrors + 1 } })

/-! ### Arrivals -/

/-- R1, R113, R116, R124, R136, R156, R134: in START nothing is received. An invalid frame is a reception error. In
ISOLATED and BLOCKED, and in LISTEN for every class but ANNOUNCE, a valid frame is received and applied to nothing. -/
def Obligations.ArrivalsOutsideMemberChangeNothing : Prop :=
  ∀ (s : State) (c : Instr) (f : Frame), c.frame? = some f →
    (s.stc.station = .start → exec c s = .next s) ∧
    (frameValid f = false → exec c s = exec (.receptionError .invalidField) s) ∧
    (frameValid f = true → s.lif.drive.isFrame = false → CollisionTold s.lif →
      (s.stc.station = .isolated ∨ s.stc.station = .blocked ∨
        (s.stc.station = .listen ∧ ∀ a, f.body ≠ .announce a)) →
      exec c s = .next { s with lif := { s.lif with receive := .outside, idle := 0, gapTaken := false } })

/-- R136, R13, R141, R162: whatever its class and epoch, the valid frame of another station resets the silence age of
a present sender, cancels the lapse that names it and the lapse it names itself, and leaves the receiver outside any
frame. -/
def Obligations.EveryArrivalResetsSilenceAndCancels : Prop :=
  ∀ (s : State) (c : Instr) (f : Frame), c.frame? = some f → HearsOther s f →
    ∃ t, exec c s = .next t ∧ t.stc = s.stc ∧ t.lif = { s.lif with receive := .outside, idle := 0, gapTaken := false } ∧
      t.pending = s.pending ∧ t.txq.inFlight = none ∧
      ((s.record f.sender).present = true → (t.record f.sender).silence = 0) ∧
      .memberSilent f.sender ∉ t.txq.entries ∧ (∀ k, f.body = .rankTimeout k → .rankTimeout k ∉ t.txq.entries) ∧
      (∀ i, f.body = .memberSilent i → .memberSilent i ∉ t.txq.entries)

/-- R137, R146, R161, R51, R96: the own arrival ends the attempt, clears both counts and removes its entry, which
comes back only as an ADVANCE requested anew. A remembered action becomes a new hold entry; a remembered FAULT becomes
a new entry unless the rewind of the arrived FAULT absorbs it. -/
def Obligations.OwnArrivalRemovesItsEntry : Prop :=
  ∀ (s : State) (c : Instr) (f : Frame), c.frame? = some f → HearsOwn s f → f.epoch = s.dvu.epoch → s.txq.Sound →
    ∃ t, exec c s = .next t ∧ t.stc = s.stc ∧ t.pending = s.pending ∧
      t.lif = { s.lif with
        receive := .outside, idle := 0, gapTaken := false, drive := .none, collisions := 0, driveFaults := 0 } ∧
      t.txq.inFlight = none ∧ t.txq.remembered = none ∧
      (s.txq.remembered = none → bodyKey f.body ≠ .advance → ∀ e ∈ t.txq.entries, e.key ≠ bodyKey f.body) ∧
      (∀ a b, f.body = .hold b → s.txq.remembered = some (.hold a) → s.txq.entries.length ≤ 11 →
        .hold a ∈ t.txq.entries) ∧
      (∀ g h, f.body = .fault h → s.txq.remembered = some (.fault g) → s.txq.entries.length ≤ 11 →
        (.fault g ∈ t.txq.entries ↔ ∀ b, rewindOf f.body = some b → faultAbsorbed g b s.rank = false))

/-- R14, R8, R15, R101, R180: an ANNOUNCE of equal epoch from another station: its record follows the frame, its
holding flag enters or leaves the hold set, and the view check runs. A difference sets disagree, appends a VIEW record
and requests a FAULT(VIEW) to the rank of R15. The own ANNOUNCE touches the own record's ready flag alone, set where the
frame and the board both say READY (R10, R14), besides the view check; that its late flag stays is the model's reading
(log entry 11). -/
def Obligations.EqualAnnounceIsAppliedAndChecked : Prop :=
  (∀ (s : State) (i : StationId) (a : AnnounceFields), HearsOther s ⟨i, s.dvu.epoch, .announce a⟩ →
    ∃ t, exec (.announceArrival i s.dvu.epoch a) s = .next t ∧ HeardFrame s t ⟨i, s.dvu.epoch, .announce a⟩ ∧
      t.dvu.epoch = s.dvu.epoch ∧ t.dvu.base = s.dvu.base ∧ t.dvu.front = s.dvu.front ∧ t.dvu.gather = s.dvu.gather ∧
      t.dvu.gatherExpired = s.dvu.gatherExpired ∧ SameTimers s.dvu t.dvu ∧ t.bsu = s.bsu ∧
      (∀ j : StationId, t.dvu.holdSet[j] = if j = i then a.holding else s.dvu.holdSet[j]) ∧
      t.record i =
        { present := true, rank := a.senderRank, board := a.board, ready := a.board == .ready
          late := (s.record i).present && (s.record i).late && a.board != .ready, silence := 0
          joined := if (s.record i).present then (s.record i).joined else s.dvu.epoch
          disagree := !(s.dvu.front == a.front && s.dvu.base == a.base && s.dvu.gather == a.gather)
          budget := a.budget, logPending := a.logPending } ∧
      (∀ j : StationId, j ≠ i → j ≠ s.self → t.record j = s.record j) ∧
      (s.dvu.front = a.front → s.dvu.base = a.base → s.dvu.gather = a.gather →
        t.clg = s.clg ∧ t.lpt = s.lpt ∧ t.record s.self = s.record s.self) ∧
      (¬(s.dvu.front = a.front ∧ s.dvu.base = a.base ∧ s.dvu.gather = a.gather) → ∃ b : Rank,
        (s.dvu.front ≠ a.front →
          (b.val : Int) = min 7 (min (frontValue s.dvu.front) (frontValue a.front) + 1)) ∧
        (s.dvu.front = a.front → b = min s.dvu.base a.base) ∧
        t.clg = s.clg.appended (recordOf .view (some (if b = 0 then .domain else .rank)) (some s.self) s.dvu.epoch
          (some b) s.stc.uptime false) ∧
        (s.txq.entries.length < 12 → s.txq.holds .fault = false →
          .fault ⟨.view, if b = 0 then .domain else .rank, s.rank, b⟩ ∈ t.txq.entries))) ∧
  ∀ (s : State) (i : StationId) (a : AnnounceFields), HearsOwn s ⟨i, s.dvu.epoch, .announce a⟩ → ViewSound s →
    ∃ t, exec (.announceArrival i s.dvu.epoch a) s = .next t ∧ HeardFrame s t ⟨i, s.dvu.epoch, .announce a⟩ ∧
      t.dvu.epoch = s.dvu.epoch ∧ t.dvu.base = s.dvu.base ∧ t.dvu.front = s.dvu.front ∧ t.dvu.gather = s.dvu.gather ∧
      t.dvu.gatherExpired = s.dvu.gatherExpired ∧ SameTimers s.dvu t.dvu ∧ t.bsu = s.bsu ∧
      (∀ j : StationId, t.dvu.holdSet[j] = if j = i then a.holding else s.dvu.holdSet[j]) ∧
      (∀ j : StationId, j ≠ i → t.record j = s.record j) ∧
      t.record i = { s.record i with
        ready := (s.record i).ready || (a.board == .ready && s.bsu.board == .ready)
        disagree := !(s.dvu.front == a.front && s.dvu.base == a.base && s.dvu.gather == a.gather)
        logPending := t.logPending } ∧
      (s.dvu.front = a.front → s.dvu.base = a.base → s.dvu.gather = a.gather → t.clg = s.clg ∧ t.lpt = s.lpt)

/-- R16, R9, R91, R164, R180: catch-up: a newer ANNOUNCE, with gather clear or the own gather set, gives the station its
view. Every present record, the own one included, loses its late flag, and its ready flag at the new base or above. -/
def Obligations.NewerAnnounceCatchesUp : Prop :=
  ∀ (s : State) (i : StationId) (e : Epoch) (a : AnnounceFields), HearsOther s ⟨i, e, .announce a⟩ →
    compareEpoch e s.dvu.epoch i s.self = .newer → (a.gather = false ∨ s.dvu.gather = true) →
    ∃ t, exec (.announceArrival i e a) s = .next t ∧ HeardFrame s t ⟨i, e, .announce a⟩ ∧
      t.dvu.epoch = e ∧ t.dvu.base = a.base ∧ t.dvu.front = a.front ∧ t.dvu.gather = a.gather ∧
      t.dvu.gatherExpired = false ∧ t.dvu.announce = s.dvu.announce ∧ t.dvu.holdLimit = s.dvu.holdLimit ∧
      t.dvu.gatherTimer = (if a.gather then .running (gatherInterval s.profile) else .stopped) ∧
      t.dvu.settle = (match a.front with
        | .rank _ => .running (settleInterval s.profile)
        | _ => .stopped) ∧
      (∀ j : StationId, t.dvu.holdSet[j] = if j = i then a.holding else s.dvu.holdSet[j]) ∧
      t.record i =
        { present := true, rank := a.senderRank, board := a.board, ready := a.board == .ready
          late := false, silence := 0
          joined := if (s.record i).present then (s.record i).joined else e
          disagree := (s.record i).present && (s.record i).disagree
          budget := a.budget, logPending := a.logPending } ∧
      (∀ j : StationId, j ≠ i → j ≠ s.self → (s.record j).present = true → t.record j =
        { s.record j with late := false, ready := (s.record j).ready && decide ((s.record j).rank < a.base) }) ∧
      (∀ j : StationId, j ≠ i → j ≠ s.self → (s.record j).present = false → t.record j = s.record j) ∧
      (ViewSound s → t.record s.self = { s.record s.self with
        late := false, ready := (s.record s.self).ready && decide (s.rank < a.base), board := t.bsu.board
        logPending := t.logPending }) ∧
      (a.base ≤ s.rank → boardRunning s.bsu.board = true → BoardStopped s.bsu s.profile .held t.bsu ∧
        t.bsu.budget = s.bsu.budget ∧ t.bsu.recovery = s.bsu.recovery) ∧
      (¬(a.base ≤ s.rank ∧ boardRunning s.bsu.board = true) → ReleaseEvaluated s.bsu t) ∧
      QueuePurged s t a.base ∧ (s.txq.entries.length ≤ 9 → .announce ∈ t.txq.entries) ∧
      t.clg = s.clg.appended (recordOf .catchUp none (some i) e (some a.base) s.stc.uptime false)

/-- R17: an ANNOUNCE of older epoch, or a newer one with gather set while the own gather is clear, refreshes its
sender's record alone; an older one is answered. -/
def Obligations.UnadoptedAnnounceRefreshesPresence : Prop :=
  ∀ (s : State) (i : StationId) (e : Epoch) (a : AnnounceFields), HearsOther s ⟨i, e, .announce a⟩ →
    (compareEpoch e s.dvu.epoch i s.self = .older ∨
      (compareEpoch e s.dvu.epoch i s.self = .newer ∧ a.gather = true ∧ s.dvu.gather = false)) →
    ∃ t, exec (.announceArrival i e a) s = .next t ∧ HeardFrame s t ⟨i, e, .announce a⟩ ∧
      SameDomain s.dvu t.dvu ∧ SameTimers s.dvu t.dvu ∧ (∀ j : StationId, j ≠ i → t.record j = s.record j) ∧
      t.record i =
        { present := true, rank := a.senderRank, board := a.board
          ready := (s.record i).ready && a.board == .ready
          late := (s.record i).present && (s.record i).late, silence := 0
          joined := if (s.record i).present then (s.record i).joined else s.dvu.epoch
          disagree := (s.record i).present && (s.record i).disagree
          budget := a.budget, logPending := a.logPending } ∧
      (compareEpoch e s.dvu.epoch i s.self = .older → s.txq.entries.length ≤ 9 → .announce ∈ t.txq.entries) ∧
      (compareEpoch e s.dvu.epoch i s.self = .newer → .announce ∈ t.txq.entries → .announce ∈ s.txq.entries) ∧
      t.bsu = s.bsu ∧ t.clg = s.clg ∧ t.lpt = s.lpt

/-- R23, R24, R117, R164: in LISTEN an ANNOUNCE of newer epoch, or of equal epoch with a front at or above the kept
one, is adopted; any other leaves the station in LISTEN, and so does one with the station's own ID, whatever its epoch and
front (R116). -/
def Obligations.ListenAdoptsTheFirstFitAnnounce : Prop :=
  ∀ (s : State) (i : StationId) (e : Epoch) (a : AnnounceFields), s.stc.station = .listen →
    announceConsistent a = true → s.lif.drive.isFrame = false → CollisionTold s.lif → s.txq.inFlight = none →
    (i = s.self → exec (.announceArrival i e a) s =
      .next { s with lif := { s.lif with receive := .outside, idle := 0, gapTaken := false } }) ∧
    (i ≠ s.self → (compareEpoch e s.dvu.epoch i s.self = .newer ∨
        (compareEpoch e s.dvu.epoch i s.self = .equal ∧ frontValue s.dvu.front ≤ frontValue a.front)) →
      ∃ t, exec (.announceArrival i e a) s = .next t ∧
        t.stc = { s.stc with station := .member, listenIn := .stopped } ∧
        t.dvu.epoch = e ∧ t.dvu.base = a.base ∧ t.dvu.front = a.front ∧ t.dvu.gather = a.gather ∧
        t.dvu.gatherExpired = false ∧ t.dvu.announce = .running (announcePeriod s.profile) ∧
        t.dvu.holdLimit = s.dvu.holdLimit ∧
        t.dvu.gatherTimer = (if a.gather then .running (gatherInterval s.profile) else .stopped) ∧
        t.dvu.settle = (match a.front with
          | .rank _ => .running (settleInterval s.profile)
          | _ => .stopped) ∧
        (∀ j : StationId, t.dvu.holdSet[j] = (decide (j = i) && a.holding)) ∧
        t.record s.self = ⟨true, s.rank, t.bsu.board, false, false, 0, e, false, s.bsu.budget, s.logPending⟩ ∧
        t.record i = ⟨true, a.senderRank, a.board, a.board == .ready, false, 0, e, false, a.budget, a.logPending⟩ ∧
        (∀ j : StationId, j ≠ i → j ≠ s.self → t.record j =
          { s.record j with present := false, ready := false, late := false, disagree := false, silence := 0 }) ∧
        ReleaseEvaluated s.bsu t ∧ QueuePurged s t a.base ∧
        (s.txq.entries.length ≤ 9 → .announce ∈ t.txq.entries ∧ t.qru = s.qru) ∧
        t.lif = { s.lif with receive := .outside, idle := 0, gapTaken := false } ∧ t.clg = s.clg ∧ t.lpt = s.lpt ∧
        t.pending = s.pending) ∧
    (i ≠ s.self → compareEpoch e s.dvu.epoch i s.self = .older ∨
        (compareEpoch e s.dvu.epoch i s.self = .equal ∧ frontValue a.front < frontValue s.dvu.front) →
      exec (.announceArrival i e a) s =
        .next { s with lif := { s.lif with receive := .outside, idle := 0, gapTaken := false } })

/-- R33, R34, R35: an ADVANCE, another station's or the own, is accepted at equal epoch with no holder, its old front
the receiver's and its new one above; it moves the front, ends gather, restarts or stops the settle timer and
evaluates the release. Any other moves nothing. Either way no ADVANCE that waited stays but one requested anew. -/
def Obligations.AdvanceIsAcceptedOrRefused : Prop :=
  ∀ (s : State) (i : StationId) (e : Epoch) (old new : Front),
    HearsOther s ⟨i, e, .advance old new⟩ ∨ HearsOwn s ⟨i, e, .advance old new⟩ →
    ∃ t, exec (.advanceArrival i e old new) s = .next t ∧ HeardFrame s t ⟨i, e, .advance old new⟩ ∧
      t.dvu.epoch = s.dvu.epoch ∧ t.dvu.base = s.dvu.base ∧ t.dvu.gatherExpired = s.dvu.gatherExpired ∧
      t.dvu.holdSet = s.dvu.holdSet ∧ t.dvu.announce = s.dvu.announce ∧ t.dvu.holdLimit = s.dvu.holdLimit ∧
      (∀ j : StationId, j ≠ s.self → t.record j = (s.hear i).record j) ∧
      (e = s.dvu.epoch → (∀ j : StationId, s.dvu.holdSet[j] = false) → old = s.dvu.front →
        frontValue old < frontValue new →
        t.dvu.front = new ∧ t.dvu.gather = false ∧ t.dvu.gatherTimer = .stopped ∧
        t.dvu.settle = (match new with
          | .rank _ => .running (settleInterval s.profile)
          | _ => .stopped) ∧
        ReleaseEvaluated s.bsu t ∧ (ViewSound s → t.record s.self = { s.record s.self with board := t.bsu.board })) ∧
      (¬(e = s.dvu.epoch ∧ (∀ j : StationId, s.dvu.holdSet[j] = false) ∧ old = s.dvu.front ∧
          frontValue old < frontValue new) →
        t.dvu.front = s.dvu.front ∧ t.dvu.gather = s.dvu.gather ∧ t.dvu.gatherTimer = s.dvu.gatherTimer ∧
        t.dvu.settle = s.dvu.settle ∧ t.bsu = s.bsu ∧ t.record s.self = (s.hear i).record s.self) ∧
      (∀ o n, .advance o n ∈ t.txq.entries → o = t.dvu.front ∧ n = t.dvu.nextFront) ∧
      t.clg = s.clg ∧ t.lpt = s.lpt

/-- R43, R27, R21, R22, R7, R8: a LAPSE(RANK-TIMEOUT) of equal epoch whose subject is the front marks every blocking
record late and restarts the settle timer. A LAPSE(MEMBER-SILENT) of equal epoch removes its subject and its hold, but
at the subject itself only draws an ANNOUNCE. Any other lapse changes nothing beyond the silence age. -/
def Obligations.LapsesMarkOrRemove : Prop :=
  (∀ (s : State) (i : StationId) (e : Epoch) (k : Rank),
    HearsOther s ⟨i, e, .rankTimeout k⟩ ∨ HearsOwn s ⟨i, e, .rankTimeout k⟩ →
    ∃ t, exec (.rankTimeoutArrival i e k) s = .next t ∧ HeardFrame s t ⟨i, e, .rankTimeout k⟩ ∧
      SameDomain s.dvu t.dvu ∧ t.dvu.announce = s.dvu.announce ∧ t.dvu.gatherTimer = s.dvu.gatherTimer ∧
      t.dvu.holdLimit = s.dvu.holdLimit ∧
      (e = s.dvu.epoch → s.dvu.front = .rank k → t.dvu.settle = .running (settleInterval s.profile) ∧
        ∀ j : StationId,
          ((s.record j).present = true → (s.record j).rank ≤ k → (s.record j).ready = false →
            (s.record j).late = false → (s.record j).board ≠ .excluded →
            t.record j = { (s.hear i).record j with late := true }) ∧
          (¬((s.record j).present = true ∧ (s.record j).rank ≤ k ∧ (s.record j).ready = false ∧
            (s.record j).late = false ∧ (s.record j).board ≠ .excluded) → t.record j = (s.hear i).record j)) ∧
      (¬(e = s.dvu.epoch ∧ s.dvu.front = .rank k) →
        t.dvu.settle = s.dvu.settle ∧ ∀ j : StationId, t.record j = (s.hear i).record j) ∧
      t.bsu = s.bsu ∧ t.clg = s.clg ∧ t.lpt = s.lpt) ∧
  ∀ (s : State) (i : StationId) (e : Epoch) (k : StationId),
    HearsOther s ⟨i, e, .memberSilent k⟩ ∨ HearsOwn s ⟨i, e, .memberSilent k⟩ →
    ∃ t, exec (.memberSilentArrival i e k) s = .next t ∧ HeardFrame s t ⟨i, e, .memberSilent k⟩ ∧
      t.dvu.epoch = s.dvu.epoch ∧ t.dvu.base = s.dvu.base ∧ t.dvu.front = s.dvu.front ∧ t.dvu.gather = s.dvu.gather ∧
      t.dvu.gatherExpired = s.dvu.gatherExpired ∧ SameTimers s.dvu t.dvu ∧
      (∀ j : StationId, j ≠ k → t.record j = (s.hear i).record j ∧ t.dvu.holdSet[j] = s.dvu.holdSet[j]) ∧
      (e = s.dvu.epoch → k ≠ s.self → (s.record k).present = true → t.dvu.holdSet[k] = false ∧ t.record k =
        { s.record k with present := false, ready := false, late := false, disagree := false, silence := 0 }) ∧
      (e ≠ s.dvu.epoch ∨ k = s.self ∨ (s.record k).present = false →
        t.record k = (s.hear i).record k ∧ t.dvu.holdSet[k] = s.dvu.holdSet[k]) ∧
      (e = s.dvu.epoch → k = s.self → s.txq.entries.length ≤ 9 → .announce ∈ t.txq.entries) ∧
      t.bsu = s.bsu ∧ t.clg = s.clg ∧ t.lpt = s.lpt

/-- R53, R55 to R59, R164: an applied FAULT of cause START, or of scope DOMAIN or RANK, another station's or the own,
rewinds the station; a record is appended everywhere but at the sender; the queue is purged of every ADVANCE, LAPSE, READY
and absorbed FAULT and keeps the rest. -/
def Obligations.AppliedFaultRewinds : Prop :=
  ∀ (s : State) (i : StationId) (f : FaultFields) (b : Rank),
    HearsOther s ⟨i, s.dvu.epoch, .fault f⟩ ∨ HearsOwn s ⟨i, s.dvu.epoch, .fault f⟩ → ViewSound s →
    ((f.cause = .start ∨ f.scope = .domain) ∧ b = 0) ∨ (f.cause ≠ .start ∧ f.scope = .rank ∧ b = f.rewindRank) →
    ∃ t, exec (.faultArrival i s.dvu.epoch f) s = .next t ∧ HeardFrame s t ⟨i, s.dvu.epoch, .fault f⟩ ∧
      Rewound (s.hear i) t b (f.cause == .start) ∧
      t.clg = (if i = s.self then s.clg else s.clg.appended (recordOf f.cause (some f.scope) (some i)
        (epochSucc s.dvu.epoch) (some b) s.stc.uptime false)) ∧
      (i ≠ s.self ∨ s.txq.remembered = none → QueuePurged s t b)

/-- R53, R54: a LOCAL FAULT of equal epoch marks a present sender's board as recovering, and rewinds nothing; at the
sender itself the own record is not written. An older FAULT draws an ANNOUNCE, a newer one nothing; neither is
applied. -/
def Obligations.OtherFaultsDoNotRewind : Prop :=
  ∀ (s : State) (i : StationId) (e : Epoch) (f : FaultFields),
    HearsOther s ⟨i, e, .fault f⟩ ∨ HearsOwn s ⟨i, e, .fault f⟩ →
    (e = s.dvu.epoch → f.cause ≠ .start ∧ f.scope = .local) →
    ∃ t, exec (.faultArrival i e f) s = .next t ∧ HeardFrame s t ⟨i, e, .fault f⟩ ∧
      SameDomain s.dvu t.dvu ∧ SameTimers s.dvu t.dvu ∧
      (∀ j : StationId, j ≠ i → t.record j = s.record j) ∧
      (e = s.dvu.epoch → i ≠ s.self → (s.record i).present = true → t.record i =
        { s.record i with rank := f.senderRank, board := .recover, ready := false, silence := 0 }) ∧
      (e ≠ s.dvu.epoch ∨ i = s.self ∨ (s.record i).present = false → t.record i = (s.hear i).record i) ∧
      (compareEpoch e s.dvu.epoch i s.self = .older → s.txq.entries.length ≤ 9 → .announce ∈ t.txq.entries) ∧
      (compareEpoch e s.dvu.epoch i s.self = .newer → .announce ∈ t.txq.entries → .announce ∈ s.txq.entries) ∧
      t.bsu = s.bsu ∧ t.clg = s.clg ∧ t.lpt = s.lpt

/-- R98 to R100, R103, R105, R163: a HOLD, at any epoch, adds a present sender to the hold set and starts the sender's
own hold limit; the first holder cancels a pending ADVANCE. A RESUME removes its sender and stops the sender's own
hold limit; with the last holder gone and nothing else in its way an ADVANCE is pending. -/
def Obligations.HoldAndResumeChangeTheHoldSet : Prop :=
  (∀ (s : State) (i : StationId) (e : Epoch), HearsOther s ⟨i, e, .hold .hold⟩ ∨ HearsOwn s ⟨i, e, .hold .hold⟩ →
    ∃ t, exec (.holdArrival i e) s = .next t ∧ HeardFrame s t ⟨i, e, .hold .hold⟩ ∧
      (∀ j : StationId, t.dvu.holdSet[j] = (s.dvu.holdSet[j] || (decide (j = i) && (s.record i).present))) ∧
      t.dvu.holdLimit = (if i = s.self ∧ (s.record i).present = true then .running (holdLimitInterval s.profile)
        else s.dvu.holdLimit) ∧
      ((s.record i).present = true → (∀ j : StationId, s.dvu.holdSet[j] = false) →
        ∀ o n, .advance o n ∉ t.txq.entries) ∧
      t.dvu.epoch = s.dvu.epoch ∧ t.dvu.base = s.dvu.base ∧ t.dvu.front = s.dvu.front ∧ t.dvu.gather = s.dvu.gather ∧
      t.dvu.gatherExpired = s.dvu.gatherExpired ∧ t.dvu.announce = s.dvu.announce ∧
      t.dvu.gatherTimer = s.dvu.gatherTimer ∧ t.dvu.settle = s.dvu.settle ∧
      (∀ j : StationId, t.record j = (s.hear i).record j) ∧ t.bsu = s.bsu ∧ t.clg = s.clg ∧ t.lpt = s.lpt) ∧
  ∀ (s : State) (i : StationId) (e : Epoch), HearsOther s ⟨i, e, .hold .resume⟩ ∨ HearsOwn s ⟨i, e, .hold .resume⟩ →
    ∃ t, exec (.resumeArrival i e) s = .next t ∧ HeardFrame s t ⟨i, e, .hold .resume⟩ ∧
      (∀ j : StationId, t.dvu.holdSet[j] = (s.dvu.holdSet[j] && decide (j ≠ i))) ∧
      t.dvu.holdLimit = (if i = s.self then .stopped else s.dvu.holdLimit) ∧
      (s.dvu.holdSet[i] = true → (∀ j : StationId, j ≠ i → s.dvu.holdSet[j] = false) → s.dvu.front ≠ .all →
        (s.dvu.gather = false ∨ s.dvu.gatherExpired = true) → s.dvu.someBlocking = false →
        s.txq.entries.length ≤ 9 → ∃ o n, .advance o n ∈ t.txq.entries) ∧
      t.dvu.epoch = s.dvu.epoch ∧ t.dvu.base = s.dvu.base ∧ t.dvu.front = s.dvu.front ∧ t.dvu.gather = s.dvu.gather ∧
      t.dvu.gatherExpired = s.dvu.gatherExpired ∧ t.dvu.announce = s.dvu.announce ∧
      t.dvu.gatherTimer = s.dvu.gatherTimer ∧ t.dvu.settle = s.dvu.settle ∧
      (∀ j : StationId, t.record j = (s.hear i).record j) ∧ t.bsu = s.bsu ∧ t.clg = s.clg ∧ t.lpt = s.lpt

/-- R18, R10: a READY of equal epoch makes the record of a present sender ready and not late; at the own arrival the
ready flag is set only while the board is READY; that the own late flag is cleared even where it no longer is is the
model's reading (log entry 12). Of another epoch, or from an absent sender, it changes nothing beyond
the silence age. -/
def Obligations.ReadyMarksItsSender : Prop :=
  ∀ (s : State) (i : StationId) (e : Epoch) (r : Rank),
    HearsOther s ⟨i, e, .ready r⟩ ∨ HearsOwn s ⟨i, e, .ready r⟩ →
    ∃ t, exec (.readyArrival i e r) s = .next t ∧ HeardFrame s t ⟨i, e, .ready r⟩ ∧
      (e = s.dvu.epoch → (s.record i).present = true → i ≠ s.self → t.record i =
        { s.record i with rank := r, board := .ready, ready := true, late := false, silence := 0 }) ∧
      (e = s.dvu.epoch → (s.record i).present = true → i = s.self → t.record i =
        { s.record i with ready := (s.record i).ready || s.bsu.board == .ready, late := false, silence := 0 }) ∧
      (e ≠ s.dvu.epoch ∨ (s.record i).present = false → t.record i = (s.hear i).record i) ∧
      (∀ j : StationId, j ≠ i → t.record j = s.record j) ∧
      SameDomain s.dvu t.dvu ∧ SameTimers s.dvu t.dvu ∧ t.bsu = s.bsu ∧ t.clg = s.clg ∧ t.lpt = s.lpt

/-- R172, R169, R173: a QUERY for this station is answered, whatever its epoch and whoever sends it, with the data of
the moment; one for another station is not. The own arrival of a QUERY starts the query timer of the slot its tag
names, if that slot waits with that tag. -/
def Obligations.QueriesAreAnsweredAndTimed : Prop :=
  (∀ (s : State) (i : StationId) (e : Epoch) (k : StationId) (item : Item) (tag : Tag),
    HearsOther s ⟨i, e, .query k item tag⟩ →
    ∃ t, exec (.queryArrival i e k item tag) s = .next t ∧ HeardFrame s t ⟨i, e, .query k item tag⟩ ∧
      (k = s.self → s.txq.entries.length < 12 → ∃ r, .reply r ∈ t.txq.entries ∧ r.requester = i ∧ r.item = item ∧
        r.tag = tag ∧
        (item = .status → r.status = .ok ∧
          r.data1 = boardCode s.bsu.board ++ budgetCode s.bsu.budget ++ stationCode .member ∧
          r.data2 = s.lif.rxErrors.extractLsb' 0 8) ∧
        (item = .logSummary → r.status = .ok ∧ r.data1 = BitVec.ofNat 8 s.clg.records.length ∧
          (s.clg.records = [] → r.data2 = 0) ∧
          ∀ x l, s.clg.records = x :: l → r.data2.toNat = (causeCode x.cause).toNat) ∧
        (item = .lastFault →
          (s.qru.lastFault = none → r.status = .noData ∧ r.data1 = 0 ∧ r.data2 = 0) ∧
          ∀ l, s.qru.lastFault = some l → r.status = .ok ∧
            r.data1 = causeCode l.cause ++ scopeCode l.scope ++ 0#2 ∧ r.data2 = l.epoch)) ∧
      (k ≠ s.self → t.qru = s.qru ∧ t.txq = s.txq.cancel (.memberSilent i)) ∧
      (∀ j : StationId, t.record j = (s.hear i).record j) ∧ SameDomain s.dvu t.dvu ∧ SameTimers s.dvu t.dvu ∧
      t.bsu = s.bsu ∧ t.clg = s.clg ∧ t.lpt = s.lpt) ∧
  ∀ (s : State) (i : StationId) (e : Epoch) (k : StationId) (item : Item) (tag : Tag),
    HearsOwn s ⟨i, e, .query k item tag⟩ → k ≠ s.self → s.txq.remembered = none →
    ∃ t, exec (.queryArrival i e k item tag) s = .next t ∧
      ((s.qru.slots[tag.slot]).state = .waiting → (s.qru.slots[tag.slot]).gen = tag.gen →
        t.qru.slots[tag.slot] = { s.qru.slots[tag.slot] with timer := .running (queryTimeout s.profile) }) ∧
      (¬((s.qru.slots[tag.slot]).state = .waiting ∧ (s.qru.slots[tag.slot]).gen = tag.gen) →
        t.qru.slots[tag.slot] = s.qru.slots[tag.slot]) ∧
      (∀ j : SlotIx, j ≠ tag.slot → t.qru.slots[j] = s.qru.slots[j]) ∧ t.qru.lastFault = s.qru.lastFault ∧
      (∀ j : StationId, t.record j = (s.hear i).record j) ∧ SameDomain s.dvu t.dvu ∧ SameTimers s.dvu t.dvu ∧
      t.stc = s.stc ∧ t.bsu = s.bsu ∧ t.clg = s.clg ∧ t.lpt = s.lpt

/-- R174, R175: a REPLY to this station completes the waiting slot of its tag when its sender is the slot's target;
any other changes no slot. The own arrival of a REPLY to another station removes its entry and changes no slot. A query
timer's expiry completes its slot with NO-ANSWER. -/
def Obligations.RepliesAndExpiriesCompleteSlots : Prop :=
  (∀ (s : State) (i : StationId) (e : Epoch) (r : ReplyFields), HearsOther s ⟨i, e, .reply r⟩ →
    ∃ t, exec (.replyArrival i e r) s = .next t ∧
      (r.requester = s.self → (s.qru.slots[r.tag.slot]).state = .waiting → (s.qru.slots[r.tag.slot]).gen = r.tag.gen →
        (s.qru.slots[r.tag.slot]).target = i →
        t.qru.slots[r.tag.slot] = { s.qru.slots[r.tag.slot] with
          state := .done, outcome := .ok, status := r.status, data1 := r.data1, data2 := r.data2, timer := .stopped } ∧
        (∀ j : SlotIx, j ≠ r.tag.slot → t.qru.slots[j] = s.qru.slots[j]) ∧ t.qru.lastFault = s.qru.lastFault ∧
        ∀ k item g, .query k item ⟨r.tag.slot, g⟩ ∉ t.txq.entries) ∧
      (¬(r.requester = s.self ∧ (s.qru.slots[r.tag.slot]).state = .waiting ∧
        (s.qru.slots[r.tag.slot]).gen = r.tag.gen ∧ (s.qru.slots[r.tag.slot]).target = i) →
        t.qru = s.qru ∧ t.txq = s.txq.cancel (.memberSilent i)) ∧
      (∀ j : StationId, t.record j = (s.hear i).record j) ∧ SameDomain s.dvu t.dvu ∧ SameTimers s.dvu t.dvu ∧
      t.stc = s.stc ∧ t.lif = { s.lif with receive := .outside, idle := 0, gapTaken := false } ∧ t.bsu = s.bsu ∧
      t.clg = s.clg ∧ t.lpt = s.lpt ∧ t.pending = s.pending) ∧
  (∀ (s : State) (i : StationId) (e : Epoch) (r : ReplyFields), HearsOwn s ⟨i, e, .reply r⟩ → r.requester ≠ s.self →
    s.txq.remembered = none → ∃ t, exec (.replyArrival i e r) s = .next t ∧ HeardFrame s t ⟨i, e, .reply r⟩ ∧
      t.qru = s.qru ∧ t.txq.inFlight = none ∧ t.txq.remembered = none ∧
      t.txq.entries = s.txq.entries.filter (fun x => x.key ≠ .reply r.requester r.tag ∧ x.key ≠ .memberSilent i) ∧
      (∀ j : StationId, t.record j = (s.hear i).record j) ∧ SameDomain s.dvu t.dvu ∧ SameTimers s.dvu t.dvu ∧
      t.bsu = s.bsu ∧ t.clg = s.clg ∧ t.lpt = s.lpt) ∧
  ∀ (s : State) (i : SlotIx), (s.qru.slots[i]).state = .waiting → (s.qru.slots[i]).timer.isRunning = true →
    ∃ t, exec (.queryTimerExpiry i) s = .next t ∧ t = { s with qru := t.qru } ∧ t.qru.lastFault = s.qru.lastFault ∧
      (∀ j : SlotIx, j ≠ i → t.qru.slots[j] = s.qru.slots[j]) ∧
      t.qru.slots[i] = { s.qru.slots[i] with
        state := .done, outcome := .noAnswer, status := .ok, data1 := 0, data2 := 0, timer := .stopped }

/-! ### The local port -/

/-- R138, R113, R176, R187, R188: SCS_N's fall opens a transaction; its rise ends it. The port counts the response bytes
shifted out, the command of the rise those since, in any portions. The rise after the whole response has been shifted out
removes the marked record, if it is still the oldest, or frees the marked slot; any other rise removes nothing. A port
command changes nothing in START, outside a transaction, in one that began in START, or once a command has been taken. A
command is taken when its bytes are complete, none before: bytes shifted in one by one, the first picking the command,
bring it to the front of the queue. SDO carries ones but for the response, whose bytes go out in order, and ones
throughout START; outside a transaction it is not driven. What the port still holds after a transaction, how a transaction
cut off by a reset ends, and that a command outside a transaction changes nothing are the model's reading (log entry 18);
so are the fields that a freed slot keeps (log entry 19). -/
def Obligations.TransactionsCarryOneCommand : Prop :=
  (∀ s : State,
    (s.lpt.scs = .high → exec .transactionStart s =
      .next { s with lpt := ⟨.low, s.stc.station != .start, [], false, [], 0, none⟩ }) ∧
    (∀ n, s.lpt.scs = .cut → exec (.transactionEnd n) s = .next { s with lpt := { s.lpt with scs := .high } }) ∧
    (∀ n, s.lpt.scs = .low → s.lpt.taken = false → exec (.transactionEnd n) s =
      .next { s with lpt := { s.lpt with scs := .high, observed := false, mark := none } }) ∧
    (∀ m n, exec (.transactionEnd n) (s.shiftOut m) = exec (.transactionEnd (m + n)) s) ∧
    ∀ n p, s.lpt.scs = .low → s.lpt.taken = true →
      p = { s.lpt with scs := .high, observed := false, shifted := min (s.lpt.shifted + n) s.lpt.response.length
                       mark := none } →
      (s.lpt.shifted + n < s.lpt.response.length ∨ s.lpt.mark = none →
        exec (.transactionEnd n) s = .next { s with lpt := p }) ∧
      (s.lpt.response.length ≤ s.lpt.shifted + n → ∀ seq r l, s.lpt.mark = some (.record seq) →
        s.clg.records = r :: l → ∃ t, exec (.transactionEnd n) s = .next t ∧
          t.clg = { s.clg with records := if r.seq = seq then l else r :: l } ∧
          (r.seq = seq → OnlyOwnFollows s t) ∧ (r.seq ≠ seq → t.dvu = s.dvu) ∧ t.lpt = p ∧
          SameDomain s.dvu t.dvu ∧ SameTimers s.dvu t.dvu ∧
          t.stc = s.stc ∧ t.lif = s.lif ∧ t.txq = s.txq ∧ t.bsu = s.bsu ∧ t.qru = s.qru ∧ t.pending = s.pending) ∧
      (s.lpt.response.length ≤ s.lpt.shifted + n → ∀ i : SlotIx, s.lpt.mark = some (.slot i) →
        (s.qru.slots[i]).state = .done → ∃ q, exec (.transactionEnd n) s = .next { s with lpt := p, qru := q } ∧
          q.slots[i] = { s.qru.slots[i] with state := .free } ∧ (∀ j : SlotIx, j ≠ i → q.slots[j] = s.qru.slots[j]) ∧
          q.lastFault = s.qru.lastFault)) ∧
  (∀ (s : State) (c : Instr), isPortCommand c = true → ¬AwaitsCommand s → exec c s = .next s) ∧
  (∀ (s : State) (c : Instr), isPortCommand c = true → WellFormed c = true → AwaitsCommand s →
    ∃ t, exec c s = .next t ∧ t.lpt.taken = true ∧ t.lpt.shifted = 0 ∧ takenCommand t.lpt.received = some c ∧
      (∀ n, n < t.lpt.received.length → takenCommand (t.lpt.received.take n) = none) ∧
      (s.lpt.received = [] → t.lpt.received.foldl State.shiftIn s =
        { s with lpt := { s.lpt with received := t.lpt.received }, pending := c :: s.pending })) ∧
  (∀ (s : State) (b : Byte), ¬AwaitsCommand s → s.shiftIn b = s) ∧
  ∀ s : State, (s.lpt.scs = .high → s.sdo = none) ∧
    (s.lpt.scs = .low → s.lpt.taken = false → s.sdo = some 0xFF#8 ∧ ∀ k, s.shiftOut k = s) ∧
    (s.lpt.scs = .low → s.lpt.taken = true → ∀ k,
      s.shiftOut k = { s with lpt := { s.lpt with shifted := min (s.lpt.shifted + k) s.lpt.response.length } } ∧
      (∀ b, s.lpt.response[s.lpt.shifted + k]? = some b → (s.shiftOut k).sdo = some b) ∧
      (s.lpt.response.length ≤ s.lpt.shifted + k → (s.shiftOut k).sdo = some 0xFF#8)) ∧
    (s.lpt.scs = .cut → s.stc.station = .start → s.sdo = some 0xFF#8) ∧
    (s.lpt.scs = .cut → s.stc.station ≠ .start → s.sdo = none)

/-- R186, R39, R132, R139, 7.9: GET-STATUS reports the station and GET-MEMBER a record, byte by byte, in the codes of 7.9;
an ID above 31 is RANGE, and a byte that names no command is answered RANGE in one byte. Only the port changes. -/
def Obligations.StatusAndMemberReports : Prop :=
  ([StationState.start, .listen, .member, .isolated, .blocked].map stationCode = [0#3, 1#3, 2#3, 3#3, 4#3] ∧
    [BoardState.held, .runup, .ready, .recover, .excluded].map boardCode = [0#3, 1#3, 2#3, 3#3, 4#3] ∧
    frontCode .none = 15#4 ∧ frontCode .all = 8#4 ∧ (∀ r : Rank, (frontCode (.rank r)).toNat = r.val) ∧
    [false, true].map flagCode = [0#1, 1#1] ∧ [Item.status, .logSummary, .lastFault].map itemCode = [1#4, 2#4, 3#4] ∧
    (∀ g : Tag, (tagCode g).toNat = 4 * g.slot.val + g.gen.val) ∧
    commandCodes = [0x10#8, 0x11#8, 0x20#8, 0x21#8, 0x30#8, 0x31#8, 0x40#8, 0x50#8, 0x51#8, 0x60#8]) ∧
  (∀ s : State, AwaitsCommand s → exec .getStatus s = .next { s with lpt := (.answered [0x10#8]
    [0x00#8,
     stationCode s.stc.station ++ boardCode s.bsu.board ++
       (if s.dvu.gather = true then 0#2 else if s.dvu.front = .all then 2#2 else 1#2),
     s.dvu.epoch,
     frontCode s.dvu.front ++ 0#1 ++ BitVec.ofNat 3 s.dvu.base.val,
     BitVec.ofNat 8 (s.dvu.holdSet.toArray.toList.count true),
     BitVec.ofNat 3 s.stc.straps.rank.val ++ BitVec.ofNat 5 s.stc.straps.id.val,
     (if s.dvu.holdSet[s.self] = true then 1#1 else 0#1) ++ BitVec.ofNat 2 s.bsu.budget.val ++
       BitVec.ofNat 5 s.clg.records.length,
     s.lif.rxErrors.extractLsb' 8 8, s.lif.rxErrors.extractLsb' 0 8] none) }) ∧
  ∀ (s : State) (b : Byte), AwaitsCommand s →
    (∀ i : StationId, b.toNat = i.val → exec (.getMember b) s = .next { s with lpt := (.answered [0x11#8, b]
      [0x00#8,
       flagCode (s.record i).present ++ flagCode (s.record i).ready ++ flagCode (s.record i).late ++
         flagCode (s.record i).disagree ++ flagCode (s.record i).logPending ++ BitVec.ofNat 3 (s.record i).rank.val,
       boardCode (s.record i).board ++ BitVec.ofNat 2 (s.record i).budget.val ++
         BitVec.ofNat 3 (s.record i).silence.val,
       (s.record i).joined] none) }) ∧
    (32 ≤ b.toNat → exec (.getMember b) s =
      .next { s with lpt := .answered [0x11#8, b] [0x04#8, 0xFF#8, 0xFF#8, 0xFF#8] none }) ∧
    (b ∉ commandCodes → exec (.unknownCommand b) s = .next { s with lpt := .answered [b] [0x04#8] none })

/-- R187, R178, R47, R132, 7.9: LOG-PEEK and LOG-TAKE report the oldest record in the codes of 7.9, and LOG-TAKE marks it
by its sequence number; on an empty log both answer EMPTY. Only the port changes. -/
def Obligations.LogCommandsReportTheOldestRecord : Prop :=
  ([Cause.start, .wdog, .boardFlt, .supply, .soft, .emrg, .view, .late, .powerOn, .stnReset, .dupId, .isolated, .excluded,
      .catchUp].map causeCode = [1#4, 2#4, 3#4, 4#4, 5#4, 6#4, 7#4, 8#4, 9#4, 10#4, 11#4, 12#4, 13#4, 14#4] ∧
    [Scope.local, .rank, .domain].map scopeCode = [1#2, 2#2, 3#2]) ∧
  ∀ s : State, AwaitsCommand s →
    (s.clg.records = [] →
      exec .logPeek s = .next { s with lpt := .answered [0x21#8] (0x01#8 :: List.replicate 9 0xFF#8) none } ∧
      exec .logTake s = .next { s with lpt := .answered [0x20#8] (0x01#8 :: List.replicate 9 0xFF#8) none }) ∧
    ∀ r l, s.clg.records = r :: l → ∃ c3 c4 c6 : Byte,
      exec .logPeek s = .next { s with lpt := (.answered [0x21#8]
        [0x00#8, r.seq, c3, c4, r.epoch, c6, r.uptime.extractLsb' 24 8, r.uptime.extractLsb' 16 8,
         r.uptime.extractLsb' 8 8, r.uptime.extractLsb' 0 8] none) } ∧
      exec .logTake s = .next { s with lpt := (.answered [0x20#8]
        [0x00#8, r.seq, c3, c4, r.epoch, c6, r.uptime.extractLsb' 24 8, r.uptime.extractLsb' 16 8,
         r.uptime.extractLsb' 8 8, r.uptime.extractLsb' 0 8] (some (.record r.seq))) } ∧
      c3 = causeCode r.cause ++ (match r.scope with
        | none => 0#2
        | some sc => scopeCode sc) ++ flagCode r.lossBefore ++ flagCode r.detail ∧
      (r.origin = none → c4 = 0x80#8) ∧ (∀ i, r.origin = some i → c4.toNat = i.val) ∧
      (r.base = none → c6 = 0x80#8) ∧ (∀ b, r.base = some b → c6.toNat = b.val)

/-- R96, R97, R85, R86, R139: HOLD-REQ and RESUME-REQ are accepted in MEMBER and request their action. RESET-REQ
detects a SOFT fault of the given scope in MEMBER while the board runs; a scope outside 1 to 3 is RANGE. Otherwise
they are refused with STATE and change the port alone. -/
def Obligations.HoldAndResetRequestsNeedMember : Prop :=
  (∀ (s : State) (c : Instr) (code : Byte) (a : HoldAction), AwaitsCommand s →
    (c = .holdReq ∧ code = 0x30#8 ∧ a = .hold) ∨ (c = .resumeReq ∧ code = 0x31#8 ∧ a = .resume) →
    (s.stc.station = .member → ∃ t, exec c s = .next t ∧ t.lpt = .answered [code] [0x00#8] none ∧
      (s.txq.inFlight = some .hold → s.txq.holds .hold = true →
        t.txq = { s.txq with remembered := some (.hold a) }) ∧
      (s.txq.inFlight ≠ some .hold → s.txq.holds .hold = true →
        t.txq = { s.txq with entries := s.txq.entries.map (fun e => if e.key = .hold then .hold a else e) }) ∧
      (s.txq.holds .hold = false → s.txq.entries.length < 12 →
        t.txq = { s.txq with entries := s.txq.entries ++ [.hold a] }) ∧
      (s.txq.entries.length < 12 → t.qru = s.qru) ∧ t.qru.lastFault = s.qru.lastFault ∧
      t.stc = s.stc ∧ t.lif = s.lif ∧ t.dvu = s.dvu ∧ t.bsu = s.bsu ∧ t.clg = s.clg ∧ t.pending = s.pending) ∧
    (s.stc.station ≠ .member → exec c s = .next { s with lpt := .answered [code] [0x03#8] none })) ∧
  ∀ (s : State) (b : Byte), AwaitsCommand s →
    (∀ sc : Scope, b.toNat = (scopeCode sc).toNat → s.stc.station = .member → boardRunning s.bsu.board = true →
      s.bsu.budget ≠ 3 → s.txq.Sound → ∃ t, exec (.resetReq b) s = .next t ∧ FaultDetected s t .soft sc ∧
        t.lpt = .answered [0x40#8, b] [0x00#8] none) ∧
    (1 ≤ b.toNat → b.toNat ≤ 3 → s.stc.station ≠ .member ∨ boardRunning s.bsu.board = false →
      exec (.resetReq b) s = .next { s with lpt := .answered [0x40#8, b] [0x03#8] none }) ∧
    (b.toNat = 0 ∨ 3 < b.toNat →
      exec (.resetReq b) s = .next { s with lpt := .answered [0x40#8, b] [0x04#8] none })

/-- R139, R169 to R171: QUERY-REQ is refused in order: RANGE for an argument out of range, STATE outside MEMBER, RANGE
for an absent target, BUSY with no slot FREE. An accepted one takes the FREE slot of lowest index, whose generation
grows by one and forms the tag; a query to another station waits and its QUERY is requested, one to the station itself
is answered at once. -/
def Obligations.QueryRequestIsRefusedOrAllocated : Prop :=
  (∀ (s : State) (b k : Byte), AwaitsCommand s →
    (32 ≤ b.toNat ∨ k.toNat = 0 ∨ 3 < k.toNat → exec (.queryReq b k) s =
      .next { s with lpt := .answered [0x50#8, b, k] [0x04#8, 0xFF#8] none }) ∧
    ∀ (i : StationId) (item : Item), b.toNat = i.val → k.toNat = (itemCode item).toNat →
      (s.stc.station ≠ .member → exec (.queryReq b k) s =
        .next { s with lpt := .answered [0x50#8, b, k] [0x03#8, 0xFF#8] none }) ∧
      (s.stc.station = .member → (s.record i).present = false → exec (.queryReq b k) s =
        .next { s with lpt := .answered [0x50#8, b, k] [0x04#8, 0xFF#8] none }) ∧
      (s.stc.station = .member → (s.record i).present = true → (∀ j : SlotIx, (s.qru.slots[j]).state ≠ .free) →
        exec (.queryReq b k) s = .next { s with lpt := .answered [0x50#8, b, k] [0x02#8, 0xFF#8] none })) ∧
  ∀ (s : State) (b k : Byte) (i : StationId) (item : Item) (j : SlotIx), AwaitsCommand s → b.toNat = i.val →
    k.toNat = (itemCode item).toNat → s.stc.station = .member → (s.record i).present = true →
    (s.qru.slots[j]).state = .free → (∀ m : SlotIx, m < j → (s.qru.slots[m]).state ≠ .free) →
    s.txq.entries.length < 12 →
    ∃ t, exec (.queryReq b k) s = .next t ∧
      t.lpt = .answered [0x50#8, b, k] [0x00#8, 0#4 ++ tagCode ⟨j, (s.qru.slots[j]).gen + 1⟩] none ∧
      (i ≠ s.self → t.qru.slots[j] = ⟨.waiting, (s.qru.slots[j]).gen + 1, i, item, .ok, .ok, 0, 0, .stopped⟩ ∧
        (s.txq.holds (.query j) = false → t.txq =
          { s.txq with entries := s.txq.entries ++ [.query i item ⟨j, (s.qru.slots[j]).gen + 1⟩] })) ∧
      (i = s.self → t.txq = s.txq ∧ (t.qru.slots[j]).state = .done ∧ (t.qru.slots[j]).outcome = .ok ∧
        (t.qru.slots[j]).gen = (s.qru.slots[j]).gen + 1 ∧ (t.qru.slots[j]).target = i ∧
        (t.qru.slots[j]).item = item ∧ (t.qru.slots[j]).timer = .stopped ∧
        ((t.qru.slots[j]).status, (t.qru.slots[j]).data1, (t.qru.slots[j]).data2) = s.answer item) ∧
      (∀ m : SlotIx, m ≠ j → t.qru.slots[m] = s.qru.slots[m]) ∧ t.qru.lastFault = s.qru.lastFault ∧
      t.stc = s.stc ∧ t.lif = s.lif ∧ t.dvu = s.dvu ∧ t.bsu = s.bsu ∧ t.clg = s.clg ∧ t.pending = s.pending

/-- R176, R139: QUERY-TAKE answers RANGE for a bad tag, a FREE slot or another generation, PENDING for a waiting
query, and the result, to be freed on delivery, for a DONE one. Only the port changes. -/
def Obligations.QueryTakeReportsADoneSlot : Prop :=
  ∀ (s : State) (b : Byte), AwaitsCommand s →
    (16 ≤ b.toNat → exec (.queryTake b) s =
      .next { s with lpt := .answered [0x51#8, b] (0x04#8 :: List.replicate 4 0xFF#8) none }) ∧
    ∀ g : Tag, b.toNat = (tagCode g).toNat →
      ((s.qru.slots[g.slot]).state = .free ∨ (s.qru.slots[g.slot]).gen ≠ g.gen → exec (.queryTake b) s =
        .next { s with lpt := .answered [0x51#8, b] (0x04#8 :: List.replicate 4 0xFF#8) none }) ∧
      ((s.qru.slots[g.slot]).state = .waiting → (s.qru.slots[g.slot]).gen = g.gen → exec (.queryTake b) s =
        .next { s with lpt := .answered [0x51#8, b] (0x05#8 :: List.replicate 4 0xFF#8) none }) ∧
      ((s.qru.slots[g.slot]).state = .done → (s.qru.slots[g.slot]).gen = g.gen → exec (.queryTake b) s =
        .next { s with lpt := (.answered [0x51#8, b]
          [0x00#8,
           (match (s.qru.slots[g.slot]).outcome with
             | .ok => 0#2
             | .noAnswer => 1#2
             | .dropped => 2#2) ++ (if (s.qru.slots[g.slot]).status = .ok then 0#1 else 1#1) ++ 0#3 ++
             (match (s.qru.slots[g.slot]).item with
               | .status => 1#2
               | .logSummary => 2#2
               | .lastFault => 3#2),
           0#3 ++ BitVec.ofNat 5 (s.qru.slots[g.slot]).target.val, (s.qru.slots[g.slot]).data1,
           (s.qru.slots[g.slot]).data2] (some (.slot g.slot))) })

/-- R90, R71: CLEAR-EXCL returns an EXCLUDED board to HELD with budget 0, the hold-down not restarted, and evaluates
the release; any other board refuses it with STATE. -/
def Obligations.ClearExclEndsAnExclusion : Prop :=
  ∀ s : State, AwaitsCommand s →
    (s.bsu.board = .excluded → ∃ t, exec .clearExcl s = .next t ∧
      ReleaseEvaluated { s.bsu with board := .held, budget := 0 } t ∧ t.lpt = .answered [0x60#8] [0x00#8] none ∧
      SameDomain s.dvu t.dvu ∧ SameTimers s.dvu t.dvu ∧ (∀ i : StationId, i ≠ s.self → t.record i = s.record i) ∧
      (s.stc.station = .member → (t.record s.self).board = t.bsu.board ∧ (t.record s.self).budget = 0) ∧
      (s.txq.entries.length < 12 → t.qru = s.qru ∧ ∀ e ∈ s.txq.entries, e ∈ t.txq.entries) ∧
      t.stc = s.stc ∧ t.lif = s.lif ∧ t.clg = s.clg ∧ t.pending = s.pending) ∧
    (s.bsu.board ≠ .excluded → exec .clearExcl s = .next { s with lpt := .answered [0x60#8] [0x03#8] none })

/-! ### The log -/

/-- R178, R179, R182: an append, shown by EMRG_N's fall in ISOLATED with nothing of the line still to be told: the record
takes the next sequence number, the
epoch and the uptime; a full log loses its oldest record and the one that becomes the oldest is marked, keeping its
place. -/
def Obligations.AppendsNumberRecordsAndMarkLosses : Prop :=
  ∀ s : State, s.stc.station = .isolated → LimitsTold s.lif → CollisionTold s.lif → (∀ n, s.lif.drive ≠ .brk n) →
    ∃ t, exec .emrgNFall s = .next t ∧ t.clg.nextSeq = s.clg.nextSeq + 1 ∧
    ∃ r : CauseRecord, r = ⟨s.clg.nextSeq, .emrg, none, some s.self, s.dvu.epoch, none, s.stc.uptime, false, false⟩ ∧
      (s.clg.records.length < 16 → t.clg.records = s.clg.records ++ [r]) ∧
      (∀ oldest second rest, s.clg.records = oldest :: second :: rest → rest.length = 14 →
        t.clg.records = { second with lossBefore := true } :: (rest ++ [r])) ∧
      t.stc = s.stc ∧ t.lif = s.lif ∧ t.txq = s.txq ∧ t.dvu = s.dvu ∧ t.bsu = s.bsu ∧ t.qru = s.qru ∧
      t.pending = s.pending

/-! ### Pins -/

/-- R184, R69, R140, R142, R153: ALERT_N is low outside START while the log holds a record or a slot is DONE; BRST_N
is released in RUNUP and READY alone; the line is driven dominant through a break and through the dominant bits of an
attempt. -/
def Obligations.PinsFollowLogSlotsAndBoard : Prop :=
  ∀ s : State,
    (s.alertN = .low ↔ s.stc.station ≠ .start ∧ (s.clg.records ≠ [] ∨ ∃ i : SlotIx, (s.qru.slots[i]).state = .done)) ∧
    (s.brstAsserted = false ↔ s.bsu.board = .runup ∨ s.bsu.board = .ready) ∧
    (s.lineDriven = true ↔ (∃ n, s.lif.drive = .brk n) ∨
      ∃ f n, s.lif.drive = .frame f n ∧ (lineBits f)[n / 2]? = some true)

/-! ### The queue -/

/-- R50, R157, R158: a request for a key that is not held joins as the youngest entry while there is room, and a FAULT
even of a full queue. A FAULT request that meets a waiting FAULT replaces its cause, scope and rewind rank when it is
wider or its cause is START, and leaves it as it is otherwise; the entry keeps its place. -/
def Obligations.RequestsJoinOrMerge : Prop :=
  (∀ (s : State) (e : Entry), (∀ x ∈ s.txq.entries, x.key ≠ e.key) → s.txq.entries.length < 12 →
    s.request e = { s with txq := { s.txq with entries := s.txq.entries ++ [e] } }) ∧
  (∀ (s : State) (g : FaultFields), s.txq.Sound → (∀ f, .fault f ∉ s.txq.entries) →
    .fault g ∈ (s.request (.fault g)).txq.entries) ∧
  ∀ (s : State) (l r : List Entry) (f g : FaultFields), s.txq.Sound → s.txq.entries = l ++ .fault f :: r →
    s.txq.inFlight ≠ some .fault →
    (g.cause = .start ∨ Wider g f → s.request (.fault g) = { s with txq := { s.txq with
      entries := l ++ .fault ⟨g.cause, g.scope, f.senderRank, g.rewindRank⟩ :: r } }) ∧
    (¬(g.cause = .start ∨ Wider g f) → s.request (.fault g) = s)

/-- R165, R166, R173: a new entry that meets a full queue displaces the youngest entry of the least urgent waiting
class when its own class is more urgent, and is discarded otherwise; a discarded QUERY completes its slot as DROPPED.
-/
def Obligations.FullQueueDiscardsTheLeastUrgent : Prop :=
  ∀ (s : State) (e d : Entry), s.txq.Sound → s.txq.entries.length = 12 → s.txq.holds e.key = false →
    YoungestOfLeastUrgent s.txq.waiting d →
    ∃ t x, s.request e = t ∧ t = { s with txq := t.txq, qru := t.qru } ∧ t.qru.lastFault = s.qru.lastFault ∧
      (e.urgency < d.urgency → x = d ∧
        t.txq = { s.txq with entries := s.txq.entries.filter (fun y => y.key ≠ d.key) ++ [e] }) ∧
      (d.urgency ≤ e.urgency → x = e ∧ t.txq = s.txq) ∧
      (∀ k item g, x = .query k item g → t.qru.slots[g.slot] = { s.qru.slots[g.slot] with
        state := .done, outcome := .dropped, status := .ok, data1 := 0, data2 := 0, timer := .stopped } ∧
        ∀ j : SlotIx, j ≠ g.slot → t.qru.slots[j] = s.qru.slots[j]) ∧
      ((∀ k item g, x ≠ .query k item g) → t.qru = s.qru)

/-! ### Conditions and codes -/

/-- R4: two epochs are judged by their distance. R3: the successor of an epoch is the next number, of 255 it is 1; 0 is
nobody's successor. -/
def Obligations.EpochsAreJudgedByDistance : Prop :=
  (epochSucc 255 = 1 ∧ (∀ e : Epoch, e.toNat < 255 → (epochSucc e).toNat = e.toNat + 1) ∧
    ∀ e : Epoch, epochSucc e ≠ 0) ∧
  ∀ (a b : Epoch) (sender self : StationId),
    (a = 0 → b = 0 → compareEpoch a b sender self = .equal) ∧ (a ≠ 0 → b = 0 → compareEpoch a b sender self = .newer) ∧
    (a = 0 → b ≠ 0 → compareEpoch a b sender self = .older) ∧
    (a ≠ 0 → b ≠ 0 → ∀ d, d = (a - b).toNat →
      (d = 0 → compareEpoch a b sender self = .equal) ∧
      (1 ≤ d → d ≤ 127 → compareEpoch a b sender self = .newer) ∧
      (d = 128 → sender < self → compareEpoch a b sender self = .newer) ∧
      (d = 128 → ¬sender < self → compareEpoch a b sender self = .older) ∧
      (129 ≤ d → compareEpoch a b sender self = .older))

/-- R27, R29, R30, R41: a record blocks exactly while its five conditions hold; the lowest blocking rank is a blocking
record's, and no blocking record stands lower. The advance condition has its six terms; where it holds an ADVANCE is
requested from the front to the lowest rank above it that a present record holds, or ALL. -/
def Obligations.AdvanceConditionAndBlockingRecords : Prop :=
  (∀ d : Dvu,
    (∀ (r : Record) (f : Front), r.blocking f = true ↔ r.present = true ∧ (r.rank.val : Int) ≤ frontValue f ∧
      r.ready = false ∧ r.late = false ∧ r.board ≠ .excluded) ∧
    (∀ b, d.lowestBlocking = some b ↔
      (∃ i : StationId, (d.records[i]).blocking d.front = true ∧ (d.records[i]).rank = b) ∧
      ∀ i : StationId, (d.records[i]).blocking d.front = true → b ≤ (d.records[i]).rank) ∧
    (d.someBlocking = true ↔ ∃ b, d.lowestBlocking = some b)) ∧
  ∀ s : State,
    (s.advanceCondition = true ↔ s.stc.station = .member ∧ s.dvu.front ≠ .all ∧
      (∀ i : StationId, s.dvu.holdSet[i] = false) ∧ (s.dvu.gather = false ∨ s.dvu.gatherExpired = true) ∧
      (∀ i : StationId, (s.record i).blocking s.dvu.front = false) ∧ ∀ o n, .advance o n ∉ s.txq.entries) ∧
    (∀ k, s.dvu.nextFront = .rank k ↔
      (∃ i : StationId, (s.record i).present = true ∧ (s.record i).rank = k ∧ frontValue s.dvu.front < k.val) ∧
      ∀ i : StationId, (s.record i).present = true → frontValue s.dvu.front < (s.record i).rank.val →
        k ≤ (s.record i).rank) ∧
    (s.dvu.nextFront = .all ↔
      ∀ i : StationId, (s.record i).present = true → ((s.record i).rank.val : Int) ≤ frontValue s.dvu.front) ∧
    (s.advanceCondition = true → s.evalAdvance = s.request (.advance s.dvu.front s.dvu.nextFront)) ∧
    (s.advanceCondition = false → s.evalAdvance = s)

/-- R128, R129, R132, R133, R135, 7.9: a frame goes out as the characters of its layout and their check character, the
CRC-8 taken bit by bit; a valid one is received as itself, and is as long as its class says. Characters whose last is not
the check character of the others are a bad CRC. -/
def Obligations.ReceivingAFrameInvertsSendingIt : Prop :=
  (∀ f : Frame, (encodeFrame f).map BitVec.toNat =
    frameLayout f ++ [(crcSerial ((frameLayout f).map (BitVec.ofNat 8))).toNat]) ∧
  (∀ chars : List Byte, chars.getLast? ≠ some (crcSerial chars.dropLast) → receiveFrame chars = .error .badCrc) ∧
  ∀ f : Frame, frameValid f = true →
    receiveFrame (encodeFrame f) = .ok f ∧ (encodeFrame f).length = frameLength (classCode f.body).val

/-! ### Invariants of every step -/

/-- R157, R144, R146: the queue stays within 12 entries of distinct keys, and an entry is in flight exactly while a
frame is driven, by a MEMBER. -/
def Obligations.EveryStepKeepsTheQueueSound : Prop :=
  ∀ s t : State, QueueSound s → step s = .next t → QueueSound t

/-- R1, R40, R113, R116, R121, R142, R143, R152, R168, R179: the log stays within 16 records, numbered without a gap
up to the next sequence number; timers run in their own station states alone, query timers in WAITING alone, and the
idle count and the run go with the line's level. -/
def Obligations.EveryStepKeepsLogTimersSlotsAndLineSound : Prop :=
  (∀ s t : State, LogSound s → step s = .next t → LogSound t) ∧
  ∀ s t : State, TimersSound s → SlotsSound s → LineSound s → step s = .next t →
    TimersSound t ∧ SlotsSound t ∧ LineSound t

/-- R71, R77, R87 to R89, R92 to R94: watchdog, budget, recovery, stable interval, band and latch go with the board
state. -/
def Obligations.EveryStepKeepsTheBoardSound : Prop :=
  ∀ s t : State, BoardSound s → step s = .next t → BoardSound t

/-- R6 to R10: in MEMBER the own record mirrors the station's blocks, absent records carry no flags, holders are
present, and the front is NONE in gather. -/
def Obligations.EveryStepKeepsTheViewSound : Prop :=
  ∀ s t : State, ViewSound s → step s = .next t → ViewSound t

/-- The seven invariants hold of the model's state at reset (log entry 8). -/
def Obligations.ResetStateIsSound : Prop :=
  QueueSound State.reset ∧ LogSound State.reset ∧ BoardSound State.reset ∧ ViewSound State.reset ∧
    TimersSound State.reset ∧ SlotsSound State.reset ∧ LineSound State.reset

end
end

