-- ==== Sys2Proof/Laws/State.lean ====
section
/-!
SUPPORT. The plain updates of the state: one lemma for each field of each update, true by `rfl`, so that no proof unfolds
a record update.
-/

namespace Sys2Proof.Machine

variable (s : State)

/-! ### setStc -/

@[simp] theorem State.setStc_lif (c : Stc) : (s.setStc c).lif = s.lif := rfl
@[simp] theorem State.setStc_txq (c : Stc) : (s.setStc c).txq = s.txq := rfl
@[simp] theorem State.setStc_dvu (c : Stc) : (s.setStc c).dvu = s.dvu := rfl
@[simp] theorem State.setStc_bsu (c : Stc) : (s.setStc c).bsu = s.bsu := rfl
@[simp] theorem State.setStc_qru (c : Stc) : (s.setStc c).qru = s.qru := rfl
@[simp] theorem State.setStc_clg (c : Stc) : (s.setStc c).clg = s.clg := rfl
@[simp] theorem State.setStc_lpt (c : Stc) : (s.setStc c).lpt = s.lpt := rfl
@[simp] theorem State.setStc_pending (c : Stc) : (s.setStc c).pending = s.pending := rfl
@[simp] theorem State.setStc_stc (c : Stc) : (s.setStc c).stc = c := rfl

/-! ### setLif -/

@[simp] theorem State.setLif_stc (l : Lif) : (s.setLif l).stc = s.stc := rfl
@[simp] theorem State.setLif_txq (l : Lif) : (s.setLif l).txq = s.txq := rfl
@[simp] theorem State.setLif_dvu (l : Lif) : (s.setLif l).dvu = s.dvu := rfl
@[simp] theorem State.setLif_bsu (l : Lif) : (s.setLif l).bsu = s.bsu := rfl
@[simp] theorem State.setLif_qru (l : Lif) : (s.setLif l).qru = s.qru := rfl
@[simp] theorem State.setLif_clg (l : Lif) : (s.setLif l).clg = s.clg := rfl
@[simp] theorem State.setLif_lpt (l : Lif) : (s.setLif l).lpt = s.lpt := rfl
@[simp] theorem State.setLif_pending (l : Lif) : (s.setLif l).pending = s.pending := rfl
@[simp] theorem State.setLif_lif (l : Lif) : (s.setLif l).lif = l := rfl

/-! ### setTxq -/

@[simp] theorem State.setTxq_stc (q : Txq) : (s.setTxq q).stc = s.stc := rfl
@[simp] theorem State.setTxq_lif (q : Txq) : (s.setTxq q).lif = s.lif := rfl
@[simp] theorem State.setTxq_dvu (q : Txq) : (s.setTxq q).dvu = s.dvu := rfl
@[simp] theorem State.setTxq_bsu (q : Txq) : (s.setTxq q).bsu = s.bsu := rfl
@[simp] theorem State.setTxq_qru (q : Txq) : (s.setTxq q).qru = s.qru := rfl
@[simp] theorem State.setTxq_clg (q : Txq) : (s.setTxq q).clg = s.clg := rfl
@[simp] theorem State.setTxq_lpt (q : Txq) : (s.setTxq q).lpt = s.lpt := rfl
@[simp] theorem State.setTxq_pending (q : Txq) : (s.setTxq q).pending = s.pending := rfl
@[simp] theorem State.setTxq_txq (q : Txq) : (s.setTxq q).txq = q := rfl

/-! ### setDvu -/

@[simp] theorem State.setDvu_stc (d : Dvu) : (s.setDvu d).stc = s.stc := rfl
@[simp] theorem State.setDvu_lif (d : Dvu) : (s.setDvu d).lif = s.lif := rfl
@[simp] theorem State.setDvu_txq (d : Dvu) : (s.setDvu d).txq = s.txq := rfl
@[simp] theorem State.setDvu_bsu (d : Dvu) : (s.setDvu d).bsu = s.bsu := rfl
@[simp] theorem State.setDvu_qru (d : Dvu) : (s.setDvu d).qru = s.qru := rfl
@[simp] theorem State.setDvu_clg (d : Dvu) : (s.setDvu d).clg = s.clg := rfl
@[simp] theorem State.setDvu_lpt (d : Dvu) : (s.setDvu d).lpt = s.lpt := rfl
@[simp] theorem State.setDvu_pending (d : Dvu) : (s.setDvu d).pending = s.pending := rfl
@[simp] theorem State.setDvu_dvu (d : Dvu) : (s.setDvu d).dvu = d := rfl

/-! ### putBsu -/

@[simp] theorem State.putBsu_stc (b : Bsu) : (s.putBsu b).stc = s.stc := rfl
@[simp] theorem State.putBsu_lif (b : Bsu) : (s.putBsu b).lif = s.lif := rfl
@[simp] theorem State.putBsu_txq (b : Bsu) : (s.putBsu b).txq = s.txq := rfl
@[simp] theorem State.putBsu_dvu (b : Bsu) : (s.putBsu b).dvu = s.dvu := rfl
@[simp] theorem State.putBsu_qru (b : Bsu) : (s.putBsu b).qru = s.qru := rfl
@[simp] theorem State.putBsu_clg (b : Bsu) : (s.putBsu b).clg = s.clg := rfl
@[simp] theorem State.putBsu_lpt (b : Bsu) : (s.putBsu b).lpt = s.lpt := rfl
@[simp] theorem State.putBsu_pending (b : Bsu) : (s.putBsu b).pending = s.pending := rfl
@[simp] theorem State.putBsu_bsu (b : Bsu) : (s.putBsu b).bsu = b := rfl

/-! ### setQru -/

@[simp] theorem State.setQru_stc (q : Qru) : (s.setQru q).stc = s.stc := rfl
@[simp] theorem State.setQru_lif (q : Qru) : (s.setQru q).lif = s.lif := rfl
@[simp] theorem State.setQru_txq (q : Qru) : (s.setQru q).txq = s.txq := rfl
@[simp] theorem State.setQru_dvu (q : Qru) : (s.setQru q).dvu = s.dvu := rfl
@[simp] theorem State.setQru_bsu (q : Qru) : (s.setQru q).bsu = s.bsu := rfl
@[simp] theorem State.setQru_clg (q : Qru) : (s.setQru q).clg = s.clg := rfl
@[simp] theorem State.setQru_lpt (q : Qru) : (s.setQru q).lpt = s.lpt := rfl
@[simp] theorem State.setQru_pending (q : Qru) : (s.setQru q).pending = s.pending := rfl
@[simp] theorem State.setQru_qru (q : Qru) : (s.setQru q).qru = q := rfl

/-! ### setClg -/

@[simp] theorem State.setClg_stc (c : Clg) : (s.setClg c).stc = s.stc := rfl
@[simp] theorem State.setClg_lif (c : Clg) : (s.setClg c).lif = s.lif := rfl
@[simp] theorem State.setClg_txq (c : Clg) : (s.setClg c).txq = s.txq := rfl
@[simp] theorem State.setClg_dvu (c : Clg) : (s.setClg c).dvu = s.dvu := rfl
@[simp] theorem State.setClg_bsu (c : Clg) : (s.setClg c).bsu = s.bsu := rfl
@[simp] theorem State.setClg_qru (c : Clg) : (s.setClg c).qru = s.qru := rfl
@[simp] theorem State.setClg_lpt (c : Clg) : (s.setClg c).lpt = s.lpt := rfl
@[simp] theorem State.setClg_pending (c : Clg) : (s.setClg c).pending = s.pending := rfl
@[simp] theorem State.setClg_clg (c : Clg) : (s.setClg c).clg = c := rfl

/-! ### setLpt -/

@[simp] theorem State.setLpt_stc (p : Lpt) : (s.setLpt p).stc = s.stc := rfl
@[simp] theorem State.setLpt_lif (p : Lpt) : (s.setLpt p).lif = s.lif := rfl
@[simp] theorem State.setLpt_txq (p : Lpt) : (s.setLpt p).txq = s.txq := rfl
@[simp] theorem State.setLpt_dvu (p : Lpt) : (s.setLpt p).dvu = s.dvu := rfl
@[simp] theorem State.setLpt_bsu (p : Lpt) : (s.setLpt p).bsu = s.bsu := rfl
@[simp] theorem State.setLpt_qru (p : Lpt) : (s.setLpt p).qru = s.qru := rfl
@[simp] theorem State.setLpt_clg (p : Lpt) : (s.setLpt p).clg = s.clg := rfl
@[simp] theorem State.setLpt_pending (p : Lpt) : (s.setLpt p).pending = s.pending := rfl
@[simp] theorem State.setLpt_lpt (p : Lpt) : (s.setLpt p).lpt = p := rfl

/-! ### setPending -/

@[simp] theorem State.setPending_stc (q : List Instr) : (s.setPending q).stc = s.stc := rfl
@[simp] theorem State.setPending_lif (q : List Instr) : (s.setPending q).lif = s.lif := rfl
@[simp] theorem State.setPending_txq (q : List Instr) : (s.setPending q).txq = s.txq := rfl
@[simp] theorem State.setPending_dvu (q : List Instr) : (s.setPending q).dvu = s.dvu := rfl
@[simp] theorem State.setPending_bsu (q : List Instr) : (s.setPending q).bsu = s.bsu := rfl
@[simp] theorem State.setPending_qru (q : List Instr) : (s.setPending q).qru = s.qru := rfl
@[simp] theorem State.setPending_clg (q : List Instr) : (s.setPending q).clg = s.clg := rfl
@[simp] theorem State.setPending_lpt (q : List Instr) : (s.setPending q).lpt = s.lpt := rfl
@[simp] theorem State.setPending_pending (q : List Instr) : (s.setPending q).pending = q := rfl

/-! ### setHold -/

@[simp] theorem State.setHold_stc (h : Vector Bool 32) : (s.setHold h).stc = s.stc := rfl
@[simp] theorem State.setHold_lif (h : Vector Bool 32) : (s.setHold h).lif = s.lif := rfl
@[simp] theorem State.setHold_txq (h : Vector Bool 32) : (s.setHold h).txq = s.txq := rfl
@[simp] theorem State.setHold_bsu (h : Vector Bool 32) : (s.setHold h).bsu = s.bsu := rfl
@[simp] theorem State.setHold_qru (h : Vector Bool 32) : (s.setHold h).qru = s.qru := rfl
@[simp] theorem State.setHold_clg (h : Vector Bool 32) : (s.setHold h).clg = s.clg := rfl
@[simp] theorem State.setHold_lpt (h : Vector Bool 32) : (s.setHold h).lpt = s.lpt := rfl
@[simp] theorem State.setHold_pending (h : Vector Bool 32) : (s.setHold h).pending = s.pending := rfl
@[simp] theorem State.setHold_dvu_epoch (h : Vector Bool 32) : (s.setHold h).dvu.epoch = s.dvu.epoch := rfl
@[simp] theorem State.setHold_dvu_base (h : Vector Bool 32) : (s.setHold h).dvu.base = s.dvu.base := rfl
@[simp] theorem State.setHold_dvu_front (h : Vector Bool 32) : (s.setHold h).dvu.front = s.dvu.front := rfl
@[simp] theorem State.setHold_dvu_gather (h : Vector Bool 32) : (s.setHold h).dvu.gather = s.dvu.gather := rfl
@[simp] theorem State.setHold_dvu_gatherExpired (h : Vector Bool 32) : (s.setHold h).dvu.gatherExpired = s.dvu.gatherExpired := rfl
@[simp] theorem State.setHold_dvu_holdSet (h : Vector Bool 32) : (s.setHold h).dvu.holdSet = h := rfl
@[simp] theorem State.setHold_dvu_records (h : Vector Bool 32) : (s.setHold h).dvu.records = s.dvu.records := rfl
@[simp] theorem State.setHold_dvu_announce (h : Vector Bool 32) : (s.setHold h).dvu.announce = s.dvu.announce := rfl
@[simp] theorem State.setHold_dvu_gatherTimer (h : Vector Bool 32) : (s.setHold h).dvu.gatherTimer = s.dvu.gatherTimer := rfl
@[simp] theorem State.setHold_dvu_settle (h : Vector Bool 32) : (s.setHold h).dvu.settle = s.dvu.settle := rfl
@[simp] theorem State.setHold_dvu_holdLimit (h : Vector Bool 32) : (s.setHold h).dvu.holdLimit = s.dvu.holdLimit := rfl

/-! ### setRecords -/

@[simp] theorem State.setRecords_stc (t : Vector Record 32) : (s.setRecords t).stc = s.stc := rfl
@[simp] theorem State.setRecords_lif (t : Vector Record 32) : (s.setRecords t).lif = s.lif := rfl
@[simp] theorem State.setRecords_txq (t : Vector Record 32) : (s.setRecords t).txq = s.txq := rfl
@[simp] theorem State.setRecords_bsu (t : Vector Record 32) : (s.setRecords t).bsu = s.bsu := rfl
@[simp] theorem State.setRecords_qru (t : Vector Record 32) : (s.setRecords t).qru = s.qru := rfl
@[simp] theorem State.setRecords_clg (t : Vector Record 32) : (s.setRecords t).clg = s.clg := rfl
@[simp] theorem State.setRecords_lpt (t : Vector Record 32) : (s.setRecords t).lpt = s.lpt := rfl
@[simp] theorem State.setRecords_pending (t : Vector Record 32) : (s.setRecords t).pending = s.pending := rfl
@[simp] theorem State.setRecords_dvu_epoch (t : Vector Record 32) : (s.setRecords t).dvu.epoch = s.dvu.epoch := rfl
@[simp] theorem State.setRecords_dvu_base (t : Vector Record 32) : (s.setRecords t).dvu.base = s.dvu.base := rfl
@[simp] theorem State.setRecords_dvu_front (t : Vector Record 32) : (s.setRecords t).dvu.front = s.dvu.front := rfl
@[simp] theorem State.setRecords_dvu_gather (t : Vector Record 32) : (s.setRecords t).dvu.gather = s.dvu.gather := rfl
@[simp] theorem State.setRecords_dvu_gatherExpired (t : Vector Record 32) : (s.setRecords t).dvu.gatherExpired = s.dvu.gatherExpired := rfl
@[simp] theorem State.setRecords_dvu_holdSet (t : Vector Record 32) : (s.setRecords t).dvu.holdSet = s.dvu.holdSet := rfl
@[simp] theorem State.setRecords_dvu_records (t : Vector Record 32) : (s.setRecords t).dvu.records = t := rfl
@[simp] theorem State.setRecords_dvu_announce (t : Vector Record 32) : (s.setRecords t).dvu.announce = s.dvu.announce := rfl
@[simp] theorem State.setRecords_dvu_gatherTimer (t : Vector Record 32) : (s.setRecords t).dvu.gatherTimer = s.dvu.gatherTimer := rfl
@[simp] theorem State.setRecords_dvu_settle (t : Vector Record 32) : (s.setRecords t).dvu.settle = s.dvu.settle := rfl
@[simp] theorem State.setRecords_dvu_holdLimit (t : Vector Record 32) : (s.setRecords t).dvu.holdLimit = s.dvu.holdLimit := rfl

/-! ### updateRecord -/

@[simp] theorem State.updateRecord_stc (i : StationId) (f : Record → Record) : (s.updateRecord i f).stc = s.stc := rfl
@[simp] theorem State.updateRecord_lif (i : StationId) (f : Record → Record) : (s.updateRecord i f).lif = s.lif := rfl
@[simp] theorem State.updateRecord_txq (i : StationId) (f : Record → Record) : (s.updateRecord i f).txq = s.txq := rfl
@[simp] theorem State.updateRecord_bsu (i : StationId) (f : Record → Record) : (s.updateRecord i f).bsu = s.bsu := rfl
@[simp] theorem State.updateRecord_qru (i : StationId) (f : Record → Record) : (s.updateRecord i f).qru = s.qru := rfl
@[simp] theorem State.updateRecord_clg (i : StationId) (f : Record → Record) : (s.updateRecord i f).clg = s.clg := rfl
@[simp] theorem State.updateRecord_lpt (i : StationId) (f : Record → Record) : (s.updateRecord i f).lpt = s.lpt := rfl
@[simp] theorem State.updateRecord_pending (i : StationId) (f : Record → Record) : (s.updateRecord i f).pending = s.pending := rfl
@[simp] theorem State.updateRecord_dvu_epoch (i : StationId) (f : Record → Record) : (s.updateRecord i f).dvu.epoch = s.dvu.epoch := rfl
@[simp] theorem State.updateRecord_dvu_base (i : StationId) (f : Record → Record) : (s.updateRecord i f).dvu.base = s.dvu.base := rfl
@[simp] theorem State.updateRecord_dvu_front (i : StationId) (f : Record → Record) : (s.updateRecord i f).dvu.front = s.dvu.front := rfl
@[simp] theorem State.updateRecord_dvu_gather (i : StationId) (f : Record → Record) : (s.updateRecord i f).dvu.gather = s.dvu.gather := rfl
@[simp] theorem State.updateRecord_dvu_gatherExpired (i : StationId) (f : Record → Record) : (s.updateRecord i f).dvu.gatherExpired = s.dvu.gatherExpired := rfl
@[simp] theorem State.updateRecord_dvu_holdSet (i : StationId) (f : Record → Record) : (s.updateRecord i f).dvu.holdSet = s.dvu.holdSet := rfl
@[simp] theorem State.updateRecord_dvu_records (i : StationId) (f : Record → Record) : (s.updateRecord i f).dvu.records = s.dvu.records.set i (f (s.record i)) := rfl
@[simp] theorem State.updateRecord_dvu_announce (i : StationId) (f : Record → Record) : (s.updateRecord i f).dvu.announce = s.dvu.announce := rfl
@[simp] theorem State.updateRecord_dvu_gatherTimer (i : StationId) (f : Record → Record) : (s.updateRecord i f).dvu.gatherTimer = s.dvu.gatherTimer := rfl
@[simp] theorem State.updateRecord_dvu_settle (i : StationId) (f : Record → Record) : (s.updateRecord i f).dvu.settle = s.dvu.settle := rfl
@[simp] theorem State.updateRecord_dvu_holdLimit (i : StationId) (f : Record → Record) : (s.updateRecord i f).dvu.holdLimit = s.dvu.holdLimit := rfl

/-! ### updateSlot -/

@[simp] theorem State.updateSlot_stc (i : SlotIx) (f : Slot → Slot) : (s.updateSlot i f).stc = s.stc := rfl
@[simp] theorem State.updateSlot_lif (i : SlotIx) (f : Slot → Slot) : (s.updateSlot i f).lif = s.lif := rfl
@[simp] theorem State.updateSlot_txq (i : SlotIx) (f : Slot → Slot) : (s.updateSlot i f).txq = s.txq := rfl
@[simp] theorem State.updateSlot_dvu (i : SlotIx) (f : Slot → Slot) : (s.updateSlot i f).dvu = s.dvu := rfl
@[simp] theorem State.updateSlot_bsu (i : SlotIx) (f : Slot → Slot) : (s.updateSlot i f).bsu = s.bsu := rfl
@[simp] theorem State.updateSlot_clg (i : SlotIx) (f : Slot → Slot) : (s.updateSlot i f).clg = s.clg := rfl
@[simp] theorem State.updateSlot_lpt (i : SlotIx) (f : Slot → Slot) : (s.updateSlot i f).lpt = s.lpt := rfl
@[simp] theorem State.updateSlot_pending (i : SlotIx) (f : Slot → Slot) : (s.updateSlot i f).pending = s.pending := rfl
@[simp] theorem State.updateSlot_slots (i : SlotIx) (f : Slot → Slot) : (s.updateSlot i f).qru.slots = s.qru.slots.set i (f s.qru.slots[i]) := rfl
@[simp] theorem State.updateSlot_lastFault (i : SlotIx) (f : Slot → Slot) : (s.updateSlot i f).qru.lastFault = s.qru.lastFault := rfl

/-! ### pushRecord -/

@[simp] theorem State.pushRecord_stc (r : CauseRecord) : (s.pushRecord r).stc = s.stc := rfl
@[simp] theorem State.pushRecord_lif (r : CauseRecord) : (s.pushRecord r).lif = s.lif := rfl
@[simp] theorem State.pushRecord_txq (r : CauseRecord) : (s.pushRecord r).txq = s.txq := rfl
@[simp] theorem State.pushRecord_dvu (r : CauseRecord) : (s.pushRecord r).dvu = s.dvu := rfl
@[simp] theorem State.pushRecord_bsu (r : CauseRecord) : (s.pushRecord r).bsu = s.bsu := rfl
@[simp] theorem State.pushRecord_qru (r : CauseRecord) : (s.pushRecord r).qru = s.qru := rfl
@[simp] theorem State.pushRecord_lpt (r : CauseRecord) : (s.pushRecord r).lpt = s.lpt := rfl
@[simp] theorem State.pushRecord_pending (r : CauseRecord) : (s.pushRecord r).pending = s.pending := rfl
@[simp] theorem State.pushRecord_clg (r : CauseRecord) : (s.pushRecord r).clg = ⟨s.clg.records ++ [r], s.clg.nextSeq + 1⟩ := rfl

/-! ### cancel -/

@[simp] theorem State.cancel_stc (k : Key) : (s.cancel k).stc = s.stc := rfl
@[simp] theorem State.cancel_lif (k : Key) : (s.cancel k).lif = s.lif := rfl
@[simp] theorem State.cancel_dvu (k : Key) : (s.cancel k).dvu = s.dvu := rfl
@[simp] theorem State.cancel_bsu (k : Key) : (s.cancel k).bsu = s.bsu := rfl
@[simp] theorem State.cancel_qru (k : Key) : (s.cancel k).qru = s.qru := rfl
@[simp] theorem State.cancel_clg (k : Key) : (s.cancel k).clg = s.clg := rfl
@[simp] theorem State.cancel_lpt (k : Key) : (s.cancel k).lpt = s.lpt := rfl
@[simp] theorem State.cancel_pending (k : Key) : (s.cancel k).pending = s.pending := rfl
@[simp] theorem State.cancel_txq (k : Key) : (s.cancel k).txq = s.txq.cancel k := rfl

/-! ### purge -/

@[simp] theorem State.purge_stc (b : Rank) : (s.purge b).stc = s.stc := rfl
@[simp] theorem State.purge_lif (b : Rank) : (s.purge b).lif = s.lif := rfl
@[simp] theorem State.purge_dvu (b : Rank) : (s.purge b).dvu = s.dvu := rfl
@[simp] theorem State.purge_bsu (b : Rank) : (s.purge b).bsu = s.bsu := rfl
@[simp] theorem State.purge_qru (b : Rank) : (s.purge b).qru = s.qru := rfl
@[simp] theorem State.purge_clg (b : Rank) : (s.purge b).clg = s.clg := rfl
@[simp] theorem State.purge_lpt (b : Rank) : (s.purge b).lpt = s.lpt := rfl
@[simp] theorem State.purge_pending (b : Rank) : (s.purge b).pending = s.pending := rfl
@[simp] theorem State.purge_txq (b : Rank) : (s.purge b).txq = s.txq.purge b s.rank := rfl

/-! ### failAttempt -/

@[simp] theorem State.failAttempt_stc : s.failAttempt.stc = s.stc := rfl
@[simp] theorem State.failAttempt_lif : s.failAttempt.lif = s.lif := rfl
@[simp] theorem State.failAttempt_dvu : s.failAttempt.dvu = s.dvu := rfl
@[simp] theorem State.failAttempt_bsu : s.failAttempt.bsu = s.bsu := rfl
@[simp] theorem State.failAttempt_qru : s.failAttempt.qru = s.qru := rfl
@[simp] theorem State.failAttempt_clg : s.failAttempt.clg = s.clg := rfl
@[simp] theorem State.failAttempt_lpt : s.failAttempt.lpt = s.lpt := rfl
@[simp] theorem State.failAttempt_pending : s.failAttempt.pending = s.pending := rfl
@[simp] theorem State.failAttempt_txq : s.failAttempt.txq = s.txq.fail := rfl

/-! ### The drive and the attempt -/

@[simp] theorem Lif.stopSending_receive (l : Lif) : l.stopSending.receive = l.receive := rfl
@[simp] theorem Lif.stopSending_idle (l : Lif) : l.stopSending.idle = l.idle := rfl
@[simp] theorem Lif.stopSending_lineDominant (l : Lif) : l.stopSending.lineDominant = l.lineDominant := rfl
@[simp] theorem Lif.stopSending_runLength (l : Lif) : l.stopSending.runLength = l.runLength := rfl
@[simp] theorem Lif.stopSending_runClass (l : Lif) : l.stopSending.runClass = l.runClass := rfl
@[simp] theorem Lif.stopSending_joinWindow (l : Lif) : l.stopSending.joinWindow = l.joinWindow := rfl
@[simp] theorem Lif.stopSending_gapTaken (l : Lif) : l.stopSending.gapTaken = l.gapTaken := rfl
@[simp] theorem Lif.stopSending_collisions (l : Lif) : l.stopSending.collisions = l.collisions := rfl
@[simp] theorem Lif.stopSending_driveFaults (l : Lif) : l.stopSending.driveFaults = l.driveFaults := rfl
@[simp] theorem Lif.stopSending_rxErrors (l : Lif) : l.stopSending.rxErrors = l.rxErrors := rfl
@[simp] theorem Lif.stopSending_drive (l : Lif) : l.stopSending.drive = l.drive.stopFrame := rfl
@[simp] theorem Lif.stopSending_mismatch (l : Lif) : l.stopSending.mismatch = false := rfl
@[simp] theorem Lif.restartIdle_receive (l : Lif) : l.restartIdle.receive = l.receive := rfl
@[simp] theorem Lif.restartIdle_lineDominant (l : Lif) : l.restartIdle.lineDominant = l.lineDominant := rfl
@[simp] theorem Lif.restartIdle_runLength (l : Lif) : l.restartIdle.runLength = l.runLength := rfl
@[simp] theorem Lif.restartIdle_runClass (l : Lif) : l.restartIdle.runClass = l.runClass := rfl
@[simp] theorem Lif.restartIdle_drive (l : Lif) : l.restartIdle.drive = l.drive := rfl
@[simp] theorem Lif.restartIdle_mismatch (l : Lif) : l.restartIdle.mismatch = l.mismatch := rfl
@[simp] theorem Lif.restartIdle_joinWindow (l : Lif) : l.restartIdle.joinWindow = l.joinWindow := rfl
@[simp] theorem Lif.restartIdle_collisions (l : Lif) : l.restartIdle.collisions = l.collisions := rfl
@[simp] theorem Lif.restartIdle_driveFaults (l : Lif) : l.restartIdle.driveFaults = l.driveFaults := rfl
@[simp] theorem Lif.restartIdle_rxErrors (l : Lif) : l.restartIdle.rxErrors = l.rxErrors := rfl
@[simp] theorem Lif.restartIdle_idle (l : Lif) : l.restartIdle.idle = 0 := rfl
@[simp] theorem Lif.restartIdle_gapTaken (l : Lif) : l.restartIdle.gapTaken = false := rfl
@[simp] theorem Drive.stopFrame_frame (f : Frame) (n : Nat) : (Drive.frame f n).stopFrame = .none := rfl
@[simp] theorem Drive.stopFrame_brk (n : Nat) : (Drive.brk n).stopFrame = .brk n := rfl
@[simp] theorem Drive.stopFrame_none : Drive.none.stopFrame = .none := rfl
/-- R146, R153: an attempt's frame is driven no more; anything else goes on. -/
theorem Drive.stopFrame_eq (d : Drive) : d.stopFrame = if d.isFrame = true then .none else d := by cases d <;> rfl

@[simp] theorem Drive.stopFrame_isFrame (d : Drive) : d.stopFrame.isFrame = false := by cases d <;> rfl

/-- R146: an attempt whose outcome is still to come is being driven or has met a mismatch. -/
theorem Lif.attempting_iff (l : Lif) : l.attempting = true ↔ l.drive.isFrame = true ∨ l.mismatch = true := by
  simp [Lif.attempting]

/-- R146: an ended attempt has its outcome. -/
@[simp] theorem State.endAttempt_attempting : s.endAttempt.lif.attempting = false := by
  show (s.lif.drive.stopFrame.isFrame || false) = false
  simp

/-! ### exemptFrame -/

@[simp] theorem State.exemptFrame_stc : s.exemptFrame.stc = s.stc := rfl
@[simp] theorem State.exemptFrame_txq : s.exemptFrame.txq = s.txq := rfl
@[simp] theorem State.exemptFrame_dvu : s.exemptFrame.dvu = s.dvu := rfl
@[simp] theorem State.exemptFrame_bsu : s.exemptFrame.bsu = s.bsu := rfl
@[simp] theorem State.exemptFrame_qru : s.exemptFrame.qru = s.qru := rfl
@[simp] theorem State.exemptFrame_clg : s.exemptFrame.clg = s.clg := rfl
@[simp] theorem State.exemptFrame_lpt : s.exemptFrame.lpt = s.lpt := rfl
@[simp] theorem State.exemptFrame_pending : s.exemptFrame.pending = s.pending := rfl
@[simp] theorem State.exemptFrame_lif : s.exemptFrame.lif = { s.lif with receive := s.lif.receive.exempted } := rfl

/-! ### releaseBreak -/

@[simp] theorem State.releaseBreak_stc : s.releaseBreak.stc = s.stc := rfl
@[simp] theorem State.releaseBreak_txq : s.releaseBreak.txq = s.txq := rfl
@[simp] theorem State.releaseBreak_dvu : s.releaseBreak.dvu = s.dvu := rfl
@[simp] theorem State.releaseBreak_bsu : s.releaseBreak.bsu = s.bsu := rfl
@[simp] theorem State.releaseBreak_qru : s.releaseBreak.qru = s.qru := rfl
@[simp] theorem State.releaseBreak_clg : s.releaseBreak.clg = s.clg := rfl
@[simp] theorem State.releaseBreak_lpt : s.releaseBreak.lpt = s.lpt := rfl
@[simp] theorem State.releaseBreak_pending : s.releaseBreak.pending = s.pending := rfl
@[simp] theorem State.releaseBreak_lif : s.releaseBreak.lif = { s.lif with drive := .none } := rfl

/-! ### endAttempt -/

@[simp] theorem State.endAttempt_stc : s.endAttempt.stc = s.stc := rfl
@[simp] theorem State.endAttempt_dvu : s.endAttempt.dvu = s.dvu := rfl
@[simp] theorem State.endAttempt_bsu : s.endAttempt.bsu = s.bsu := rfl
@[simp] theorem State.endAttempt_qru : s.endAttempt.qru = s.qru := rfl
@[simp] theorem State.endAttempt_clg : s.endAttempt.clg = s.clg := rfl
@[simp] theorem State.endAttempt_lpt : s.endAttempt.lpt = s.lpt := rfl
@[simp] theorem State.endAttempt_pending : s.endAttempt.pending = s.pending := rfl
@[simp] theorem State.endAttempt_txq : s.endAttempt.txq = s.txq.fail := rfl
@[simp] theorem State.endAttempt_lif : s.endAttempt.lif = { s.lif with drive := s.lif.drive.stopFrame, mismatch := false } := rfl

/-! ### frameDone -/

@[simp] theorem State.frameDone_stc : s.frameDone.stc = s.stc := rfl
@[simp] theorem State.frameDone_txq : s.frameDone.txq = s.txq := rfl
@[simp] theorem State.frameDone_dvu : s.frameDone.dvu = s.dvu := rfl
@[simp] theorem State.frameDone_bsu : s.frameDone.bsu = s.bsu := rfl
@[simp] theorem State.frameDone_qru : s.frameDone.qru = s.qru := rfl
@[simp] theorem State.frameDone_clg : s.frameDone.clg = s.clg := rfl
@[simp] theorem State.frameDone_lpt : s.frameDone.lpt = s.lpt := rfl
@[simp] theorem State.frameDone_pending : s.frameDone.pending = s.pending := rfl
@[simp] theorem State.frameDone_lif : s.frameDone.lif = { s.lif with receive := .outside, idle := 0, gapTaken := false } := rfl

/-! ### removeHold -/

@[simp] theorem State.removeHold_stc (i : StationId) : (s.removeHold i).stc = s.stc := rfl
@[simp] theorem State.removeHold_lif (i : StationId) : (s.removeHold i).lif = s.lif := rfl
@[simp] theorem State.removeHold_txq (i : StationId) : (s.removeHold i).txq = s.txq := rfl
@[simp] theorem State.removeHold_bsu (i : StationId) : (s.removeHold i).bsu = s.bsu := rfl
@[simp] theorem State.removeHold_qru (i : StationId) : (s.removeHold i).qru = s.qru := rfl
@[simp] theorem State.removeHold_clg (i : StationId) : (s.removeHold i).clg = s.clg := rfl
@[simp] theorem State.removeHold_lpt (i : StationId) : (s.removeHold i).lpt = s.lpt := rfl
@[simp] theorem State.removeHold_pending (i : StationId) : (s.removeHold i).pending = s.pending := rfl
@[simp] theorem State.removeHold_dvu_epoch (i : StationId) : (s.removeHold i).dvu.epoch = s.dvu.epoch := rfl
@[simp] theorem State.removeHold_dvu_base (i : StationId) : (s.removeHold i).dvu.base = s.dvu.base := rfl
@[simp] theorem State.removeHold_dvu_front (i : StationId) : (s.removeHold i).dvu.front = s.dvu.front := rfl
@[simp] theorem State.removeHold_dvu_gather (i : StationId) : (s.removeHold i).dvu.gather = s.dvu.gather := rfl
@[simp] theorem State.removeHold_dvu_gatherExpired (i : StationId) : (s.removeHold i).dvu.gatherExpired = s.dvu.gatherExpired := rfl
@[simp] theorem State.removeHold_dvu_holdSet (i : StationId) : (s.removeHold i).dvu.holdSet = s.dvu.holdSet.set i false := rfl
@[simp] theorem State.removeHold_dvu_records (i : StationId) : (s.removeHold i).dvu.records = s.dvu.records := rfl
@[simp] theorem State.removeHold_dvu_announce (i : StationId) : (s.removeHold i).dvu.announce = s.dvu.announce := rfl
@[simp] theorem State.removeHold_dvu_gatherTimer (i : StationId) : (s.removeHold i).dvu.gatherTimer = s.dvu.gatherTimer := rfl
@[simp] theorem State.removeHold_dvu_settle (i : StationId) : (s.removeHold i).dvu.settle = s.dvu.settle := rfl
@[simp] theorem State.removeHold_dvu_holdLimit (i : StationId) : (s.removeHold i).dvu.holdLimit = s.dvu.holdLimit := rfl

/-! ### respond -/

@[simp] theorem State.respond_stc (received response : List Byte) (mark : Option Mark) : (s.respond received response mark).stc = s.stc := rfl
@[simp] theorem State.respond_lif (received response : List Byte) (mark : Option Mark) : (s.respond received response mark).lif = s.lif := rfl
@[simp] theorem State.respond_txq (received response : List Byte) (mark : Option Mark) : (s.respond received response mark).txq = s.txq := rfl
@[simp] theorem State.respond_dvu (received response : List Byte) (mark : Option Mark) : (s.respond received response mark).dvu = s.dvu := rfl
@[simp] theorem State.respond_bsu (received response : List Byte) (mark : Option Mark) : (s.respond received response mark).bsu = s.bsu := rfl
@[simp] theorem State.respond_qru (received response : List Byte) (mark : Option Mark) : (s.respond received response mark).qru = s.qru := rfl
@[simp] theorem State.respond_clg (received response : List Byte) (mark : Option Mark) : (s.respond received response mark).clg = s.clg := rfl
@[simp] theorem State.respond_pending (received response : List Byte) (mark : Option Mark) : (s.respond received response mark).pending = s.pending := rfl

/-! ### ownDone -/

@[simp] theorem State.ownDone_stc : s.ownDone.stc = s.stc := rfl
@[simp] theorem State.ownDone_dvu : s.ownDone.dvu = s.dvu := rfl
@[simp] theorem State.ownDone_bsu : s.ownDone.bsu = s.bsu := rfl
@[simp] theorem State.ownDone_qru : s.ownDone.qru = s.qru := rfl
@[simp] theorem State.ownDone_clg : s.ownDone.clg = s.clg := rfl
@[simp] theorem State.ownDone_lpt : s.ownDone.lpt = s.lpt := rfl
@[simp] theorem State.ownDone_pending : s.ownDone.pending = s.pending := rfl
@[simp] theorem State.ownDone_txq : s.ownDone.txq = s.txq.arrived := rfl
@[simp] theorem State.ownDone_lif : s.ownDone.lif = { s.lif with drive := .none, collisions := 0, driveFaults := 0 } := rfl

/-! ### beginAttempt -/

@[simp] theorem State.beginAttempt_stc (e : Entry) : (s.beginAttempt e).stc = s.stc := rfl
@[simp] theorem State.beginAttempt_dvu (e : Entry) : (s.beginAttempt e).dvu = s.dvu := rfl
@[simp] theorem State.beginAttempt_bsu (e : Entry) : (s.beginAttempt e).bsu = s.bsu := rfl
@[simp] theorem State.beginAttempt_qru (e : Entry) : (s.beginAttempt e).qru = s.qru := rfl
@[simp] theorem State.beginAttempt_clg (e : Entry) : (s.beginAttempt e).clg = s.clg := rfl
@[simp] theorem State.beginAttempt_lpt (e : Entry) : (s.beginAttempt e).lpt = s.lpt := rfl
@[simp] theorem State.beginAttempt_pending (e : Entry) : (s.beginAttempt e).pending = s.pending := rfl
@[simp] theorem State.beginAttempt_txq (e : Entry) : (s.beginAttempt e).txq = ⟨s.txq.entries, some e.key, none⟩ := rfl
@[simp] theorem State.beginAttempt_lif (e : Entry) : (s.beginAttempt e).lif = { s.lif with drive := .frame (s.frameOf e) 0, joinWindow := false, gapTaken := true } := rfl

end Sys2Proof.Machine
end

