-- ==== Sys2Proof/Laws/Frames.lean ====
section
/-!
SUPPORT. The frames of the shared operations: for each operation, the blocks and the view's items it leaves as they are.
-/

namespace Sys2Proof.Machine

variable (s : State)

/-! ### mirrorOwn -/

@[simp] theorem State.mirrorOwn_stc : s.mirrorOwn.stc = s.stc := by unfold State.mirrorOwn; split <;> rfl
@[simp] theorem State.mirrorOwn_lif : s.mirrorOwn.lif = s.lif := by unfold State.mirrorOwn; split <;> rfl
@[simp] theorem State.mirrorOwn_txq : s.mirrorOwn.txq = s.txq := by unfold State.mirrorOwn; split <;> rfl
@[simp] theorem State.mirrorOwn_bsu : s.mirrorOwn.bsu = s.bsu := by unfold State.mirrorOwn; split <;> rfl
@[simp] theorem State.mirrorOwn_qru : s.mirrorOwn.qru = s.qru := by unfold State.mirrorOwn; split <;> rfl
@[simp] theorem State.mirrorOwn_clg : s.mirrorOwn.clg = s.clg := by unfold State.mirrorOwn; split <;> rfl
@[simp] theorem State.mirrorOwn_lpt : s.mirrorOwn.lpt = s.lpt := by unfold State.mirrorOwn; split <;> rfl
@[simp] theorem State.mirrorOwn_pending : s.mirrorOwn.pending = s.pending := by unfold State.mirrorOwn; split <;> rfl
@[simp] theorem State.mirrorOwn_dvu_epoch : s.mirrorOwn.dvu.epoch = s.dvu.epoch := by unfold State.mirrorOwn; split <;> rfl
@[simp] theorem State.mirrorOwn_dvu_base : s.mirrorOwn.dvu.base = s.dvu.base := by unfold State.mirrorOwn; split <;> rfl
@[simp] theorem State.mirrorOwn_dvu_front : s.mirrorOwn.dvu.front = s.dvu.front := by unfold State.mirrorOwn; split <;> rfl
@[simp] theorem State.mirrorOwn_dvu_gather : s.mirrorOwn.dvu.gather = s.dvu.gather := by unfold State.mirrorOwn; split <;> rfl
@[simp] theorem State.mirrorOwn_dvu_gatherExpired : s.mirrorOwn.dvu.gatherExpired = s.dvu.gatherExpired := by unfold State.mirrorOwn; split <;> rfl
@[simp] theorem State.mirrorOwn_dvu_holdSet : s.mirrorOwn.dvu.holdSet = s.dvu.holdSet := by unfold State.mirrorOwn; split <;> rfl
@[simp] theorem State.mirrorOwn_dvu_announce : s.mirrorOwn.dvu.announce = s.dvu.announce := by unfold State.mirrorOwn; split <;> rfl
@[simp] theorem State.mirrorOwn_dvu_gatherTimer : s.mirrorOwn.dvu.gatherTimer = s.dvu.gatherTimer := by unfold State.mirrorOwn; split <;> rfl
@[simp] theorem State.mirrorOwn_dvu_settle : s.mirrorOwn.dvu.settle = s.dvu.settle := by unfold State.mirrorOwn; split <;> rfl
@[simp] theorem State.mirrorOwn_dvu_holdLimit : s.mirrorOwn.dvu.holdLimit = s.dvu.holdLimit := by unfold State.mirrorOwn; split <;> rfl

/-! ### makeRoom -/

@[simp] theorem State.makeRoom_stc : s.makeRoom.stc = s.stc := by unfold State.makeRoom; split <;> rfl
@[simp] theorem State.makeRoom_lif : s.makeRoom.lif = s.lif := by unfold State.makeRoom; split <;> rfl
@[simp] theorem State.makeRoom_txq : s.makeRoom.txq = s.txq := by unfold State.makeRoom; split <;> rfl
@[simp] theorem State.makeRoom_dvu : s.makeRoom.dvu = s.dvu := by unfold State.makeRoom; split <;> rfl
@[simp] theorem State.makeRoom_bsu : s.makeRoom.bsu = s.bsu := by unfold State.makeRoom; split <;> rfl
@[simp] theorem State.makeRoom_qru : s.makeRoom.qru = s.qru := by unfold State.makeRoom; split <;> rfl
@[simp] theorem State.makeRoom_pending : s.makeRoom.pending = s.pending := by unfold State.makeRoom; split <;> rfl

/-! ### append -/

@[simp] theorem State.append_stc (c : Cause) (sc : Option Scope) (o : Option StationId) (b : Option Rank) (d : Bool) : (s.append c sc o b d).stc = s.stc := by simp [State.append]
@[simp] theorem State.append_lif (c : Cause) (sc : Option Scope) (o : Option StationId) (b : Option Rank) (d : Bool) : (s.append c sc o b d).lif = s.lif := by simp [State.append]
@[simp] theorem State.append_txq (c : Cause) (sc : Option Scope) (o : Option StationId) (b : Option Rank) (d : Bool) : (s.append c sc o b d).txq = s.txq := by simp [State.append]
@[simp] theorem State.append_bsu (c : Cause) (sc : Option Scope) (o : Option StationId) (b : Option Rank) (d : Bool) : (s.append c sc o b d).bsu = s.bsu := by simp [State.append]
@[simp] theorem State.append_qru (c : Cause) (sc : Option Scope) (o : Option StationId) (b : Option Rank) (d : Bool) : (s.append c sc o b d).qru = s.qru := by simp [State.append]
@[simp] theorem State.append_pending (c : Cause) (sc : Option Scope) (o : Option StationId) (b : Option Rank) (d : Bool) : (s.append c sc o b d).pending = s.pending := by simp [State.append]
@[simp] theorem State.append_dvu_epoch (c : Cause) (sc : Option Scope) (o : Option StationId) (b : Option Rank) (d : Bool) : (s.append c sc o b d).dvu.epoch = s.dvu.epoch := by simp [State.append]
@[simp] theorem State.append_dvu_base (c : Cause) (sc : Option Scope) (o : Option StationId) (b : Option Rank) (d : Bool) : (s.append c sc o b d).dvu.base = s.dvu.base := by simp [State.append]
@[simp] theorem State.append_dvu_front (c : Cause) (sc : Option Scope) (o : Option StationId) (b : Option Rank) (d : Bool) : (s.append c sc o b d).dvu.front = s.dvu.front := by simp [State.append]
@[simp] theorem State.append_dvu_gather (c : Cause) (sc : Option Scope) (o : Option StationId) (b : Option Rank) (d : Bool) : (s.append c sc o b d).dvu.gather = s.dvu.gather := by simp [State.append]
@[simp] theorem State.append_dvu_gatherExpired (c : Cause) (sc : Option Scope) (o : Option StationId) (b : Option Rank) (d : Bool) : (s.append c sc o b d).dvu.gatherExpired = s.dvu.gatherExpired := by simp [State.append]
@[simp] theorem State.append_dvu_holdSet (c : Cause) (sc : Option Scope) (o : Option StationId) (b : Option Rank) (d : Bool) : (s.append c sc o b d).dvu.holdSet = s.dvu.holdSet := by simp [State.append]
@[simp] theorem State.append_dvu_announce (c : Cause) (sc : Option Scope) (o : Option StationId) (b : Option Rank) (d : Bool) : (s.append c sc o b d).dvu.announce = s.dvu.announce := by simp [State.append]
@[simp] theorem State.append_dvu_gatherTimer (c : Cause) (sc : Option Scope) (o : Option StationId) (b : Option Rank) (d : Bool) : (s.append c sc o b d).dvu.gatherTimer = s.dvu.gatherTimer := by simp [State.append]
@[simp] theorem State.append_dvu_settle (c : Cause) (sc : Option Scope) (o : Option StationId) (b : Option Rank) (d : Bool) : (s.append c sc o b d).dvu.settle = s.dvu.settle := by simp [State.append]
@[simp] theorem State.append_dvu_holdLimit (c : Cause) (sc : Option Scope) (o : Option StationId) (b : Option Rank) (d : Bool) : (s.append c sc o b d).dvu.holdLimit = s.dvu.holdLimit := by simp [State.append]

/-! ### removeOldest -/

@[simp] theorem State.removeOldest_stc : s.removeOldest.stc = s.stc := by simp [State.removeOldest]
@[simp] theorem State.removeOldest_lif : s.removeOldest.lif = s.lif := by simp [State.removeOldest]
@[simp] theorem State.removeOldest_txq : s.removeOldest.txq = s.txq := by simp [State.removeOldest]
@[simp] theorem State.removeOldest_bsu : s.removeOldest.bsu = s.bsu := by simp [State.removeOldest]
@[simp] theorem State.removeOldest_qru : s.removeOldest.qru = s.qru := by simp [State.removeOldest]
@[simp] theorem State.removeOldest_lpt : s.removeOldest.lpt = s.lpt := by simp [State.removeOldest]
@[simp] theorem State.removeOldest_pending : s.removeOldest.pending = s.pending := by simp [State.removeOldest]
@[simp] theorem State.removeOldest_dvu_epoch : s.removeOldest.dvu.epoch = s.dvu.epoch := by simp [State.removeOldest]
@[simp] theorem State.removeOldest_dvu_base : s.removeOldest.dvu.base = s.dvu.base := by simp [State.removeOldest]
@[simp] theorem State.removeOldest_dvu_front : s.removeOldest.dvu.front = s.dvu.front := by simp [State.removeOldest]
@[simp] theorem State.removeOldest_dvu_gather : s.removeOldest.dvu.gather = s.dvu.gather := by simp [State.removeOldest]
@[simp] theorem State.removeOldest_dvu_gatherExpired : s.removeOldest.dvu.gatherExpired = s.dvu.gatherExpired := by simp [State.removeOldest]
@[simp] theorem State.removeOldest_dvu_holdSet : s.removeOldest.dvu.holdSet = s.dvu.holdSet := by simp [State.removeOldest]
@[simp] theorem State.removeOldest_dvu_announce : s.removeOldest.dvu.announce = s.dvu.announce := by simp [State.removeOldest]
@[simp] theorem State.removeOldest_dvu_gatherTimer : s.removeOldest.dvu.gatherTimer = s.dvu.gatherTimer := by simp [State.removeOldest]
@[simp] theorem State.removeOldest_dvu_settle : s.removeOldest.dvu.settle = s.dvu.settle := by simp [State.removeOldest]
@[simp] theorem State.removeOldest_dvu_holdLimit : s.removeOldest.dvu.holdLimit = s.dvu.holdLimit := by simp [State.removeOldest]

/-! ### handDiscard -/

@[simp] theorem State.handDiscard_stc (d : Option Entry) : (s.handDiscard d).stc = s.stc := by unfold State.handDiscard; split <;> rfl
@[simp] theorem State.handDiscard_lif (d : Option Entry) : (s.handDiscard d).lif = s.lif := by unfold State.handDiscard; split <;> rfl
@[simp] theorem State.handDiscard_txq (d : Option Entry) : (s.handDiscard d).txq = s.txq := by unfold State.handDiscard; split <;> rfl
@[simp] theorem State.handDiscard_dvu (d : Option Entry) : (s.handDiscard d).dvu = s.dvu := by unfold State.handDiscard; split <;> rfl
@[simp] theorem State.handDiscard_bsu (d : Option Entry) : (s.handDiscard d).bsu = s.bsu := by unfold State.handDiscard; split <;> rfl
@[simp] theorem State.handDiscard_clg (d : Option Entry) : (s.handDiscard d).clg = s.clg := by unfold State.handDiscard; split <;> rfl
@[simp] theorem State.handDiscard_lpt (d : Option Entry) : (s.handDiscard d).lpt = s.lpt := by unfold State.handDiscard; split <;> rfl
@[simp] theorem State.handDiscard_pending (d : Option Entry) : (s.handDiscard d).pending = s.pending := by unfold State.handDiscard; split <;> rfl

/-! ### request -/

@[simp] theorem State.request_stc (e : Entry) : (s.request e).stc = s.stc := by simp [State.request]
@[simp] theorem State.request_lif (e : Entry) : (s.request e).lif = s.lif := by simp [State.request]
@[simp] theorem State.request_dvu (e : Entry) : (s.request e).dvu = s.dvu := by simp [State.request]
@[simp] theorem State.request_bsu (e : Entry) : (s.request e).bsu = s.bsu := by simp [State.request]
@[simp] theorem State.request_clg (e : Entry) : (s.request e).clg = s.clg := by simp [State.request]
@[simp] theorem State.request_lpt (e : Entry) : (s.request e).lpt = s.lpt := by simp [State.request]
@[simp] theorem State.request_pending (e : Entry) : (s.request e).pending = s.pending := by simp [State.request]

/-! ### setBsu -/

@[simp] theorem State.setBsu_stc (b : Bsu) : (s.setBsu b).stc = s.stc := by simp [State.setBsu]
@[simp] theorem State.setBsu_lif (b : Bsu) : (s.setBsu b).lif = s.lif := by simp [State.setBsu]
@[simp] theorem State.setBsu_txq (b : Bsu) : (s.setBsu b).txq = s.txq := by simp [State.setBsu]
@[simp] theorem State.setBsu_qru (b : Bsu) : (s.setBsu b).qru = s.qru := by simp [State.setBsu]
@[simp] theorem State.setBsu_clg (b : Bsu) : (s.setBsu b).clg = s.clg := by simp [State.setBsu]
@[simp] theorem State.setBsu_lpt (b : Bsu) : (s.setBsu b).lpt = s.lpt := by simp [State.setBsu]
@[simp] theorem State.setBsu_pending (b : Bsu) : (s.setBsu b).pending = s.pending := by simp [State.setBsu]
@[simp] theorem State.setBsu_dvu_epoch (b : Bsu) : (s.setBsu b).dvu.epoch = s.dvu.epoch := by simp [State.setBsu]
@[simp] theorem State.setBsu_dvu_base (b : Bsu) : (s.setBsu b).dvu.base = s.dvu.base := by simp [State.setBsu]
@[simp] theorem State.setBsu_dvu_front (b : Bsu) : (s.setBsu b).dvu.front = s.dvu.front := by simp [State.setBsu]
@[simp] theorem State.setBsu_dvu_gather (b : Bsu) : (s.setBsu b).dvu.gather = s.dvu.gather := by simp [State.setBsu]
@[simp] theorem State.setBsu_dvu_gatherExpired (b : Bsu) : (s.setBsu b).dvu.gatherExpired = s.dvu.gatherExpired := by simp [State.setBsu]
@[simp] theorem State.setBsu_dvu_holdSet (b : Bsu) : (s.setBsu b).dvu.holdSet = s.dvu.holdSet := by simp [State.setBsu]
@[simp] theorem State.setBsu_dvu_announce (b : Bsu) : (s.setBsu b).dvu.announce = s.dvu.announce := by simp [State.setBsu]
@[simp] theorem State.setBsu_dvu_gatherTimer (b : Bsu) : (s.setBsu b).dvu.gatherTimer = s.dvu.gatherTimer := by simp [State.setBsu]
@[simp] theorem State.setBsu_dvu_settle (b : Bsu) : (s.setBsu b).dvu.settle = s.dvu.settle := by simp [State.setBsu]
@[simp] theorem State.setBsu_dvu_holdLimit (b : Bsu) : (s.setBsu b).dvu.holdLimit = s.dvu.holdLimit := by simp [State.setBsu]

/-! ### contain -/

@[simp] theorem State.contain_stc (t : BoardState) : (s.contain t).stc = s.stc := by simp [State.contain]
@[simp] theorem State.contain_lif (t : BoardState) : (s.contain t).lif = s.lif := by simp [State.contain]
@[simp] theorem State.contain_qru (t : BoardState) : (s.contain t).qru = s.qru := by simp [State.contain]
@[simp] theorem State.contain_clg (t : BoardState) : (s.contain t).clg = s.clg := by simp [State.contain]
@[simp] theorem State.contain_lpt (t : BoardState) : (s.contain t).lpt = s.lpt := by simp [State.contain]
@[simp] theorem State.contain_pending (t : BoardState) : (s.contain t).pending = s.pending := by simp [State.contain]
@[simp] theorem State.contain_dvu_epoch (t : BoardState) : (s.contain t).dvu.epoch = s.dvu.epoch := by simp [State.contain]
@[simp] theorem State.contain_dvu_base (t : BoardState) : (s.contain t).dvu.base = s.dvu.base := by simp [State.contain]
@[simp] theorem State.contain_dvu_front (t : BoardState) : (s.contain t).dvu.front = s.dvu.front := by simp [State.contain]
@[simp] theorem State.contain_dvu_gather (t : BoardState) : (s.contain t).dvu.gather = s.dvu.gather := by simp [State.contain]
@[simp] theorem State.contain_dvu_gatherExpired (t : BoardState) : (s.contain t).dvu.gatherExpired = s.dvu.gatherExpired := by simp [State.contain]
@[simp] theorem State.contain_dvu_holdSet (t : BoardState) : (s.contain t).dvu.holdSet = s.dvu.holdSet := by simp [State.contain]
@[simp] theorem State.contain_dvu_announce (t : BoardState) : (s.contain t).dvu.announce = s.dvu.announce := by simp [State.contain]
@[simp] theorem State.contain_dvu_gatherTimer (t : BoardState) : (s.contain t).dvu.gatherTimer = s.dvu.gatherTimer := by simp [State.contain]
@[simp] theorem State.contain_dvu_settle (t : BoardState) : (s.contain t).dvu.settle = s.dvu.settle := by simp [State.contain]
@[simp] theorem State.contain_dvu_holdLimit (t : BoardState) : (s.contain t).dvu.holdLimit = s.dvu.holdLimit := by simp [State.contain]

/-! ### holdRunning -/

@[simp] theorem State.holdRunning_stc : s.holdRunning.stc = s.stc := by unfold State.holdRunning; split <;> simp
@[simp] theorem State.holdRunning_lif : s.holdRunning.lif = s.lif := by unfold State.holdRunning; split <;> simp
@[simp] theorem State.holdRunning_qru : s.holdRunning.qru = s.qru := by unfold State.holdRunning; split <;> simp
@[simp] theorem State.holdRunning_clg : s.holdRunning.clg = s.clg := by unfold State.holdRunning; split <;> simp
@[simp] theorem State.holdRunning_lpt : s.holdRunning.lpt = s.lpt := by unfold State.holdRunning; split <;> simp
@[simp] theorem State.holdRunning_pending : s.holdRunning.pending = s.pending := by unfold State.holdRunning; split <;> simp
@[simp] theorem State.holdRunning_dvu_epoch : s.holdRunning.dvu.epoch = s.dvu.epoch := by unfold State.holdRunning; split <;> simp
@[simp] theorem State.holdRunning_dvu_base : s.holdRunning.dvu.base = s.dvu.base := by unfold State.holdRunning; split <;> simp
@[simp] theorem State.holdRunning_dvu_front : s.holdRunning.dvu.front = s.dvu.front := by unfold State.holdRunning; split <;> simp
@[simp] theorem State.holdRunning_dvu_gather : s.holdRunning.dvu.gather = s.dvu.gather := by unfold State.holdRunning; split <;> simp
@[simp] theorem State.holdRunning_dvu_gatherExpired : s.holdRunning.dvu.gatherExpired = s.dvu.gatherExpired := by unfold State.holdRunning; split <;> simp
@[simp] theorem State.holdRunning_dvu_holdSet : s.holdRunning.dvu.holdSet = s.dvu.holdSet := by unfold State.holdRunning; split <;> simp
@[simp] theorem State.holdRunning_dvu_announce : s.holdRunning.dvu.announce = s.dvu.announce := by unfold State.holdRunning; split <;> simp
@[simp] theorem State.holdRunning_dvu_gatherTimer : s.holdRunning.dvu.gatherTimer = s.dvu.gatherTimer := by unfold State.holdRunning; split <;> simp
@[simp] theorem State.holdRunning_dvu_settle : s.holdRunning.dvu.settle = s.dvu.settle := by unfold State.holdRunning; split <;> simp
@[simp] theorem State.holdRunning_dvu_holdLimit : s.holdRunning.dvu.holdLimit = s.dvu.holdLimit := by unfold State.holdRunning; split <;> simp

/-! ### evalRelease -/

@[simp] theorem State.evalRelease_stc : s.evalRelease.stc = s.stc := by unfold State.evalRelease; split <;> simp
@[simp] theorem State.evalRelease_lif : s.evalRelease.lif = s.lif := by unfold State.evalRelease; split <;> simp
@[simp] theorem State.evalRelease_txq : s.evalRelease.txq = s.txq := by unfold State.evalRelease; split <;> simp
@[simp] theorem State.evalRelease_qru : s.evalRelease.qru = s.qru := by unfold State.evalRelease; split <;> simp
@[simp] theorem State.evalRelease_clg : s.evalRelease.clg = s.clg := by unfold State.evalRelease; split <;> simp
@[simp] theorem State.evalRelease_lpt : s.evalRelease.lpt = s.lpt := by unfold State.evalRelease; split <;> simp
@[simp] theorem State.evalRelease_pending : s.evalRelease.pending = s.pending := by unfold State.evalRelease; split <;> simp
@[simp] theorem State.evalRelease_dvu_epoch : s.evalRelease.dvu.epoch = s.dvu.epoch := by unfold State.evalRelease; split <;> simp
@[simp] theorem State.evalRelease_dvu_base : s.evalRelease.dvu.base = s.dvu.base := by unfold State.evalRelease; split <;> simp
@[simp] theorem State.evalRelease_dvu_front : s.evalRelease.dvu.front = s.dvu.front := by unfold State.evalRelease; split <;> simp
@[simp] theorem State.evalRelease_dvu_gather : s.evalRelease.dvu.gather = s.dvu.gather := by unfold State.evalRelease; split <;> simp
@[simp] theorem State.evalRelease_dvu_gatherExpired : s.evalRelease.dvu.gatherExpired = s.dvu.gatherExpired := by unfold State.evalRelease; split <;> simp
@[simp] theorem State.evalRelease_dvu_holdSet : s.evalRelease.dvu.holdSet = s.dvu.holdSet := by unfold State.evalRelease; split <;> simp
@[simp] theorem State.evalRelease_dvu_announce : s.evalRelease.dvu.announce = s.dvu.announce := by unfold State.evalRelease; split <;> simp
@[simp] theorem State.evalRelease_dvu_gatherTimer : s.evalRelease.dvu.gatherTimer = s.dvu.gatherTimer := by unfold State.evalRelease; split <;> simp
@[simp] theorem State.evalRelease_dvu_settle : s.evalRelease.dvu.settle = s.dvu.settle := by unfold State.evalRelease; split <;> simp
@[simp] theorem State.evalRelease_dvu_holdLimit : s.evalRelease.dvu.holdLimit = s.dvu.holdLimit := by unfold State.evalRelease; split <;> simp

/-! ### evalAdvance -/

@[simp] theorem State.evalAdvance_stc : s.evalAdvance.stc = s.stc := by unfold State.evalAdvance; split <;> simp
@[simp] theorem State.evalAdvance_lif : s.evalAdvance.lif = s.lif := by unfold State.evalAdvance; split <;> simp
@[simp] theorem State.evalAdvance_dvu : s.evalAdvance.dvu = s.dvu := by unfold State.evalAdvance; split <;> simp
@[simp] theorem State.evalAdvance_bsu : s.evalAdvance.bsu = s.bsu := by unfold State.evalAdvance; split <;> simp
@[simp] theorem State.evalAdvance_clg : s.evalAdvance.clg = s.clg := by unfold State.evalAdvance; split <;> simp
@[simp] theorem State.evalAdvance_lpt : s.evalAdvance.lpt = s.lpt := by unfold State.evalAdvance; split <;> simp
@[simp] theorem State.evalAdvance_pending : s.evalAdvance.pending = s.pending := by unfold State.evalAdvance; split <;> simp

/-! ### settleTerms -/

@[simp] theorem State.settleTerms_stc (d : Dvu) : (s.settleTerms d).stc = s.stc := by unfold State.settleTerms; split <;> simp
@[simp] theorem State.settleTerms_lif (d : Dvu) : (s.settleTerms d).lif = s.lif := by unfold State.settleTerms; split <;> simp
@[simp] theorem State.settleTerms_dvu (d : Dvu) : (s.settleTerms d).dvu = s.dvu := by unfold State.settleTerms; split <;> simp
@[simp] theorem State.settleTerms_bsu (d : Dvu) : (s.settleTerms d).bsu = s.bsu := by unfold State.settleTerms; split <;> simp
@[simp] theorem State.settleTerms_clg (d : Dvu) : (s.settleTerms d).clg = s.clg := by unfold State.settleTerms; split <;> simp
@[simp] theorem State.settleTerms_lpt (d : Dvu) : (s.settleTerms d).lpt = s.lpt := by unfold State.settleTerms; split <;> simp
@[simp] theorem State.settleTerms_pending (d : Dvu) : (s.settleTerms d).pending = s.pending := by unfold State.settleTerms; split <;> simp

/-! ### freezeIf -/

@[simp] theorem State.freezeIf_stc (b : Bool) : (s.freezeIf b).stc = s.stc := by unfold State.freezeIf; split <;> simp
@[simp] theorem State.freezeIf_lif (b : Bool) : (s.freezeIf b).lif = s.lif := by unfold State.freezeIf; split <;> simp
@[simp] theorem State.freezeIf_dvu (b : Bool) : (s.freezeIf b).dvu = s.dvu := by unfold State.freezeIf; split <;> simp
@[simp] theorem State.freezeIf_bsu (b : Bool) : (s.freezeIf b).bsu = s.bsu := by unfold State.freezeIf; split <;> simp
@[simp] theorem State.freezeIf_qru (b : Bool) : (s.freezeIf b).qru = s.qru := by unfold State.freezeIf; split <;> simp
@[simp] theorem State.freezeIf_clg (b : Bool) : (s.freezeIf b).clg = s.clg := by unfold State.freezeIf; split <;> simp
@[simp] theorem State.freezeIf_lpt (b : Bool) : (s.freezeIf b).lpt = s.lpt := by unfold State.freezeIf; split <;> simp
@[simp] theorem State.freezeIf_pending (b : Bool) : (s.freezeIf b).pending = s.pending := by unfold State.freezeIf; split <;> simp

/-! ### addHold -/

@[simp] theorem State.addHold_stc (i : StationId) : (s.addHold i).stc = s.stc := by simp [State.addHold]
@[simp] theorem State.addHold_lif (i : StationId) : (s.addHold i).lif = s.lif := by simp [State.addHold]
@[simp] theorem State.addHold_bsu (i : StationId) : (s.addHold i).bsu = s.bsu := by simp [State.addHold]
@[simp] theorem State.addHold_qru (i : StationId) : (s.addHold i).qru = s.qru := by simp [State.addHold]
@[simp] theorem State.addHold_clg (i : StationId) : (s.addHold i).clg = s.clg := by simp [State.addHold]
@[simp] theorem State.addHold_lpt (i : StationId) : (s.addHold i).lpt = s.lpt := by simp [State.addHold]
@[simp] theorem State.addHold_pending (i : StationId) : (s.addHold i).pending = s.pending := by simp [State.addHold]
@[simp] theorem State.addHold_dvu_epoch (i : StationId) : (s.addHold i).dvu.epoch = s.dvu.epoch := by simp [State.addHold]
@[simp] theorem State.addHold_dvu_base (i : StationId) : (s.addHold i).dvu.base = s.dvu.base := by simp [State.addHold]
@[simp] theorem State.addHold_dvu_front (i : StationId) : (s.addHold i).dvu.front = s.dvu.front := by simp [State.addHold]
@[simp] theorem State.addHold_dvu_gather (i : StationId) : (s.addHold i).dvu.gather = s.dvu.gather := by simp [State.addHold]
@[simp] theorem State.addHold_dvu_gatherExpired (i : StationId) : (s.addHold i).dvu.gatherExpired = s.dvu.gatherExpired := by simp [State.addHold]
@[simp] theorem State.addHold_dvu_announce (i : StationId) : (s.addHold i).dvu.announce = s.dvu.announce := by simp [State.addHold]
@[simp] theorem State.addHold_dvu_gatherTimer (i : StationId) : (s.addHold i).dvu.gatherTimer = s.dvu.gatherTimer := by simp [State.addHold]
@[simp] theorem State.addHold_dvu_settle (i : StationId) : (s.addHold i).dvu.settle = s.dvu.settle := by simp [State.addHold]
@[simp] theorem State.addHold_dvu_holdLimit (i : StationId) : (s.addHold i).dvu.holdLimit = s.dvu.holdLimit := by simp [State.addHold]

/-! ### reconcile -/

@[simp] theorem State.reconcile_stc (i : StationId) (h : Bool) : (s.reconcile i h).stc = s.stc := by unfold State.reconcile; split <;> simp
@[simp] theorem State.reconcile_lif (i : StationId) (h : Bool) : (s.reconcile i h).lif = s.lif := by unfold State.reconcile; split <;> simp
@[simp] theorem State.reconcile_bsu (i : StationId) (h : Bool) : (s.reconcile i h).bsu = s.bsu := by unfold State.reconcile; split <;> simp
@[simp] theorem State.reconcile_qru (i : StationId) (h : Bool) : (s.reconcile i h).qru = s.qru := by unfold State.reconcile; split <;> simp
@[simp] theorem State.reconcile_clg (i : StationId) (h : Bool) : (s.reconcile i h).clg = s.clg := by unfold State.reconcile; split <;> simp
@[simp] theorem State.reconcile_lpt (i : StationId) (h : Bool) : (s.reconcile i h).lpt = s.lpt := by unfold State.reconcile; split <;> simp
@[simp] theorem State.reconcile_pending (i : StationId) (h : Bool) : (s.reconcile i h).pending = s.pending := by unfold State.reconcile; split <;> simp
@[simp] theorem State.reconcile_dvu_epoch (i : StationId) (h : Bool) : (s.reconcile i h).dvu.epoch = s.dvu.epoch := by unfold State.reconcile; split <;> simp
@[simp] theorem State.reconcile_dvu_base (i : StationId) (h : Bool) : (s.reconcile i h).dvu.base = s.dvu.base := by unfold State.reconcile; split <;> simp
@[simp] theorem State.reconcile_dvu_front (i : StationId) (h : Bool) : (s.reconcile i h).dvu.front = s.dvu.front := by unfold State.reconcile; split <;> simp
@[simp] theorem State.reconcile_dvu_gather (i : StationId) (h : Bool) : (s.reconcile i h).dvu.gather = s.dvu.gather := by unfold State.reconcile; split <;> simp
@[simp] theorem State.reconcile_dvu_gatherExpired (i : StationId) (h : Bool) : (s.reconcile i h).dvu.gatherExpired = s.dvu.gatherExpired := by unfold State.reconcile; split <;> simp
@[simp] theorem State.reconcile_dvu_announce (i : StationId) (h : Bool) : (s.reconcile i h).dvu.announce = s.dvu.announce := by unfold State.reconcile; split <;> simp
@[simp] theorem State.reconcile_dvu_gatherTimer (i : StationId) (h : Bool) : (s.reconcile i h).dvu.gatherTimer = s.dvu.gatherTimer := by unfold State.reconcile; split <;> simp
@[simp] theorem State.reconcile_dvu_settle (i : StationId) (h : Bool) : (s.reconcile i h).dvu.settle = s.dvu.settle := by unfold State.reconcile; split <;> simp
@[simp] theorem State.reconcile_dvu_holdLimit (i : StationId) (h : Bool) : (s.reconcile i h).dvu.holdLimit = s.dvu.holdLimit := by unfold State.reconcile; split <;> simp

/-! ### containFault -/

@[simp] theorem State.containFault_stc (c : Cause) : (s.containFault c).stc = s.stc := by unfold State.containFault; dsimp only; split <;> simp
@[simp] theorem State.containFault_lif (c : Cause) : (s.containFault c).lif = s.lif := by unfold State.containFault; dsimp only; split <;> simp
@[simp] theorem State.containFault_qru (c : Cause) : (s.containFault c).qru = s.qru := by unfold State.containFault; dsimp only; split <;> simp
@[simp] theorem State.containFault_clg (c : Cause) : (s.containFault c).clg = s.clg := by unfold State.containFault; dsimp only; split <;> simp
@[simp] theorem State.containFault_lpt (c : Cause) : (s.containFault c).lpt = s.lpt := by unfold State.containFault; dsimp only; split <;> simp
@[simp] theorem State.containFault_pending (c : Cause) : (s.containFault c).pending = s.pending := by unfold State.containFault; dsimp only; split <;> simp
@[simp] theorem State.containFault_dvu_epoch (c : Cause) : (s.containFault c).dvu.epoch = s.dvu.epoch := by unfold State.containFault; dsimp only; split <;> simp
@[simp] theorem State.containFault_dvu_base (c : Cause) : (s.containFault c).dvu.base = s.dvu.base := by unfold State.containFault; dsimp only; split <;> simp
@[simp] theorem State.containFault_dvu_front (c : Cause) : (s.containFault c).dvu.front = s.dvu.front := by unfold State.containFault; dsimp only; split <;> simp
@[simp] theorem State.containFault_dvu_gather (c : Cause) : (s.containFault c).dvu.gather = s.dvu.gather := by unfold State.containFault; dsimp only; split <;> simp
@[simp] theorem State.containFault_dvu_gatherExpired (c : Cause) : (s.containFault c).dvu.gatherExpired = s.dvu.gatherExpired := by unfold State.containFault; dsimp only; split <;> simp
@[simp] theorem State.containFault_dvu_holdSet (c : Cause) : (s.containFault c).dvu.holdSet = s.dvu.holdSet := by unfold State.containFault; dsimp only; split <;> simp
@[simp] theorem State.containFault_dvu_announce (c : Cause) : (s.containFault c).dvu.announce = s.dvu.announce := by unfold State.containFault; dsimp only; split <;> simp
@[simp] theorem State.containFault_dvu_gatherTimer (c : Cause) : (s.containFault c).dvu.gatherTimer = s.dvu.gatherTimer := by unfold State.containFault; dsimp only; split <;> simp
@[simp] theorem State.containFault_dvu_settle (c : Cause) : (s.containFault c).dvu.settle = s.dvu.settle := by unfold State.containFault; dsimp only; split <;> simp
@[simp] theorem State.containFault_dvu_holdLimit (c : Cause) : (s.containFault c).dvu.holdLimit = s.dvu.holdLimit := by unfold State.containFault; dsimp only; split <;> simp

/-! ### localFault -/

@[simp] theorem State.localFault_stc (c : Cause) (sc : Scope) : (s.localFault c sc).stc = s.stc := by unfold State.localFault; split <;> first | rfl | (dsimp only; split <;> simp)
@[simp] theorem State.localFault_lif (c : Cause) (sc : Scope) : (s.localFault c sc).lif = s.lif := by unfold State.localFault; split <;> first | rfl | (dsimp only; split <;> simp)
@[simp] theorem State.localFault_pending (c : Cause) (sc : Scope) : (s.localFault c sc).pending = s.pending := by unfold State.localFault; split <;> first | rfl | (dsimp only; split <;> simp)
@[simp] theorem State.localFault_dvu_epoch (c : Cause) (sc : Scope) : (s.localFault c sc).dvu.epoch = s.dvu.epoch := by unfold State.localFault; split <;> first | rfl | (dsimp only; split <;> simp)
@[simp] theorem State.localFault_dvu_base (c : Cause) (sc : Scope) : (s.localFault c sc).dvu.base = s.dvu.base := by unfold State.localFault; split <;> first | rfl | (dsimp only; split <;> simp)
@[simp] theorem State.localFault_dvu_front (c : Cause) (sc : Scope) : (s.localFault c sc).dvu.front = s.dvu.front := by unfold State.localFault; split <;> first | rfl | (dsimp only; split <;> simp)
@[simp] theorem State.localFault_dvu_gather (c : Cause) (sc : Scope) : (s.localFault c sc).dvu.gather = s.dvu.gather := by unfold State.localFault; split <;> first | rfl | (dsimp only; split <;> simp)
@[simp] theorem State.localFault_dvu_gatherExpired (c : Cause) (sc : Scope) : (s.localFault c sc).dvu.gatherExpired = s.dvu.gatherExpired := by unfold State.localFault; split <;> first | rfl | (dsimp only; split <;> simp)
@[simp] theorem State.localFault_dvu_holdSet (c : Cause) (sc : Scope) : (s.localFault c sc).dvu.holdSet = s.dvu.holdSet := by unfold State.localFault; split <;> first | rfl | (dsimp only; split <;> simp)
@[simp] theorem State.localFault_dvu_announce (c : Cause) (sc : Scope) : (s.localFault c sc).dvu.announce = s.dvu.announce := by unfold State.localFault; split <;> first | rfl | (dsimp only; split <;> simp)
@[simp] theorem State.localFault_dvu_gatherTimer (c : Cause) (sc : Scope) : (s.localFault c sc).dvu.gatherTimer = s.dvu.gatherTimer := by unfold State.localFault; split <;> first | rfl | (dsimp only; split <;> simp)
@[simp] theorem State.localFault_dvu_settle (c : Cause) (sc : Scope) : (s.localFault c sc).dvu.settle = s.dvu.settle := by unfold State.localFault; split <;> first | rfl | (dsimp only; split <;> simp)
@[simp] theorem State.localFault_dvu_holdLimit (c : Cause) (sc : Scope) : (s.localFault c sc).dvu.holdLimit = s.dvu.holdLimit := by unfold State.localFault; split <;> first | rfl | (dsimp only; split <;> simp)

/-! ### strapFault -/

@[simp] theorem State.strapFault_stc (c : Cause) : (s.strapFault c).stc = s.stc := by simp [State.strapFault]
@[simp] theorem State.strapFault_lif (c : Cause) : (s.strapFault c).lif = s.lif := by simp [State.strapFault]
@[simp] theorem State.strapFault_pending (c : Cause) : (s.strapFault c).pending = s.pending := by simp [State.strapFault]
@[simp] theorem State.strapFault_dvu_epoch (c : Cause) : (s.strapFault c).dvu.epoch = s.dvu.epoch := by simp [State.strapFault]
@[simp] theorem State.strapFault_dvu_base (c : Cause) : (s.strapFault c).dvu.base = s.dvu.base := by simp [State.strapFault]
@[simp] theorem State.strapFault_dvu_front (c : Cause) : (s.strapFault c).dvu.front = s.dvu.front := by simp [State.strapFault]
@[simp] theorem State.strapFault_dvu_gather (c : Cause) : (s.strapFault c).dvu.gather = s.dvu.gather := by simp [State.strapFault]
@[simp] theorem State.strapFault_dvu_gatherExpired (c : Cause) : (s.strapFault c).dvu.gatherExpired = s.dvu.gatherExpired := by simp [State.strapFault]
@[simp] theorem State.strapFault_dvu_holdSet (c : Cause) : (s.strapFault c).dvu.holdSet = s.dvu.holdSet := by simp [State.strapFault]
@[simp] theorem State.strapFault_dvu_announce (c : Cause) : (s.strapFault c).dvu.announce = s.dvu.announce := by simp [State.strapFault]
@[simp] theorem State.strapFault_dvu_gatherTimer (c : Cause) : (s.strapFault c).dvu.gatherTimer = s.dvu.gatherTimer := by simp [State.strapFault]
@[simp] theorem State.strapFault_dvu_settle (c : Cause) : (s.strapFault c).dvu.settle = s.dvu.settle := by simp [State.strapFault]
@[simp] theorem State.strapFault_dvu_holdLimit (c : Cause) : (s.strapFault c).dvu.holdLimit = s.dvu.holdLimit := by simp [State.strapFault]

/-! ### discardFrame -/

@[simp] theorem State.discardFrame_stc : s.discardFrame.stc = s.stc := by unfold State.discardFrame; split <;> simp
@[simp] theorem State.discardFrame_txq : s.discardFrame.txq = s.txq := by unfold State.discardFrame; split <;> simp
@[simp] theorem State.discardFrame_dvu : s.discardFrame.dvu = s.dvu := by unfold State.discardFrame; split <;> simp
@[simp] theorem State.discardFrame_bsu : s.discardFrame.bsu = s.bsu := by unfold State.discardFrame; split <;> simp
@[simp] theorem State.discardFrame_qru : s.discardFrame.qru = s.qru := by unfold State.discardFrame; split <;> simp
@[simp] theorem State.discardFrame_clg : s.discardFrame.clg = s.clg := by unfold State.discardFrame; split <;> simp
@[simp] theorem State.discardFrame_lpt : s.discardFrame.lpt = s.lpt := by unfold State.discardFrame; split <;> simp
@[simp] theorem State.discardFrame_drive : s.discardFrame.lif.drive = s.lif.drive := by unfold State.discardFrame; split <;> simp
@[simp] theorem State.discardFrame_mismatch : s.discardFrame.lif.mismatch = s.lif.mismatch := by unfold State.discardFrame; split <;> simp
@[simp] theorem State.discardFrame_pending : s.discardFrame.pending = s.pending := by unfold State.discardFrame; split <;> simp

/-! ### discardReceived -/

@[simp] theorem State.discardReceived_stc : s.discardReceived.stc = s.stc := by unfold State.discardReceived; split <;> simp
@[simp] theorem State.discardReceived_txq : s.discardReceived.txq = s.txq := by unfold State.discardReceived; split <;> simp
@[simp] theorem State.discardReceived_dvu : s.discardReceived.dvu = s.dvu := by unfold State.discardReceived; split <;> simp
@[simp] theorem State.discardReceived_bsu : s.discardReceived.bsu = s.bsu := by unfold State.discardReceived; split <;> simp
@[simp] theorem State.discardReceived_qru : s.discardReceived.qru = s.qru := by unfold State.discardReceived; split <;> simp
@[simp] theorem State.discardReceived_clg : s.discardReceived.clg = s.clg := by unfold State.discardReceived; split <;> simp
@[simp] theorem State.discardReceived_lpt : s.discardReceived.lpt = s.lpt := by unfold State.discardReceived; split <;> simp
@[simp] theorem State.discardReceived_pending : s.discardReceived.pending = s.pending := by unfold State.discardReceived; split <;> simp

/-! ### boardRewind -/

@[simp] theorem State.boardRewind_stc (b : Rank) : (s.boardRewind b).stc = s.stc := by unfold State.boardRewind; split <;> simp
@[simp] theorem State.boardRewind_lif (b : Rank) : (s.boardRewind b).lif = s.lif := by unfold State.boardRewind; split <;> simp
@[simp] theorem State.boardRewind_qru (b : Rank) : (s.boardRewind b).qru = s.qru := by unfold State.boardRewind; split <;> simp
@[simp] theorem State.boardRewind_clg (b : Rank) : (s.boardRewind b).clg = s.clg := by unfold State.boardRewind; split <;> simp
@[simp] theorem State.boardRewind_lpt (b : Rank) : (s.boardRewind b).lpt = s.lpt := by unfold State.boardRewind; split <;> simp
@[simp] theorem State.boardRewind_pending (b : Rank) : (s.boardRewind b).pending = s.pending := by unfold State.boardRewind; split <;> simp
@[simp] theorem State.boardRewind_dvu_epoch (b : Rank) : (s.boardRewind b).dvu.epoch = s.dvu.epoch := by unfold State.boardRewind; split <;> simp
@[simp] theorem State.boardRewind_dvu_base (b : Rank) : (s.boardRewind b).dvu.base = s.dvu.base := by unfold State.boardRewind; split <;> simp
@[simp] theorem State.boardRewind_dvu_front (b : Rank) : (s.boardRewind b).dvu.front = s.dvu.front := by unfold State.boardRewind; split <;> simp
@[simp] theorem State.boardRewind_dvu_gather (b : Rank) : (s.boardRewind b).dvu.gather = s.dvu.gather := by unfold State.boardRewind; split <;> simp
@[simp] theorem State.boardRewind_dvu_gatherExpired (b : Rank) : (s.boardRewind b).dvu.gatherExpired = s.dvu.gatherExpired := by unfold State.boardRewind; split <;> simp
@[simp] theorem State.boardRewind_dvu_holdSet (b : Rank) : (s.boardRewind b).dvu.holdSet = s.dvu.holdSet := by unfold State.boardRewind; split <;> simp
@[simp] theorem State.boardRewind_dvu_announce (b : Rank) : (s.boardRewind b).dvu.announce = s.dvu.announce := by unfold State.boardRewind; split <;> simp
@[simp] theorem State.boardRewind_dvu_gatherTimer (b : Rank) : (s.boardRewind b).dvu.gatherTimer = s.dvu.gatherTimer := by unfold State.boardRewind; split <;> simp
@[simp] theorem State.boardRewind_dvu_settle (b : Rank) : (s.boardRewind b).dvu.settle = s.dvu.settle := by unfold State.boardRewind; split <;> simp
@[simp] theorem State.boardRewind_dvu_holdLimit (b : Rank) : (s.boardRewind b).dvu.holdLimit = s.dvu.holdLimit := by unfold State.boardRewind; split <;> simp

/-! ### rewind -/

@[simp] theorem State.rewind_stc (b : Rank) (c : Cause) (r : Option (Option Scope × Option StationId)) : (s.rewind b c r).stc = s.stc := by unfold State.rewind; dsimp only; split <;> simp
@[simp] theorem State.rewind_lif (b : Rank) (c : Cause) (r : Option (Option Scope × Option StationId)) : (s.rewind b c r).lif = s.lif := by unfold State.rewind; dsimp only; split <;> simp
@[simp] theorem State.rewind_pending (b : Rank) (c : Cause) (r : Option (Option Scope × Option StationId)) : (s.rewind b c r).pending = s.pending := by unfold State.rewind; dsimp only; split <;> simp

/-! ### applyAnnounce -/

@[simp] theorem State.applyAnnounce_stc (i : StationId) (a : AnnounceFields) : (s.applyAnnounce i a).stc = s.stc := by simp [State.applyAnnounce]
@[simp] theorem State.applyAnnounce_lif (i : StationId) (a : AnnounceFields) : (s.applyAnnounce i a).lif = s.lif := by simp [State.applyAnnounce]
@[simp] theorem State.applyAnnounce_txq (i : StationId) (a : AnnounceFields) : (s.applyAnnounce i a).txq = s.txq := by simp [State.applyAnnounce]
@[simp] theorem State.applyAnnounce_bsu (i : StationId) (a : AnnounceFields) : (s.applyAnnounce i a).bsu = s.bsu := by simp [State.applyAnnounce]
@[simp] theorem State.applyAnnounce_qru (i : StationId) (a : AnnounceFields) : (s.applyAnnounce i a).qru = s.qru := by simp [State.applyAnnounce]
@[simp] theorem State.applyAnnounce_clg (i : StationId) (a : AnnounceFields) : (s.applyAnnounce i a).clg = s.clg := by simp [State.applyAnnounce]
@[simp] theorem State.applyAnnounce_lpt (i : StationId) (a : AnnounceFields) : (s.applyAnnounce i a).lpt = s.lpt := by simp [State.applyAnnounce]
@[simp] theorem State.applyAnnounce_pending (i : StationId) (a : AnnounceFields) : (s.applyAnnounce i a).pending = s.pending := by simp [State.applyAnnounce]
@[simp] theorem State.applyAnnounce_dvu_epoch (i : StationId) (a : AnnounceFields) : (s.applyAnnounce i a).dvu.epoch = s.dvu.epoch := by simp [State.applyAnnounce]
@[simp] theorem State.applyAnnounce_dvu_base (i : StationId) (a : AnnounceFields) : (s.applyAnnounce i a).dvu.base = s.dvu.base := by simp [State.applyAnnounce]
@[simp] theorem State.applyAnnounce_dvu_front (i : StationId) (a : AnnounceFields) : (s.applyAnnounce i a).dvu.front = s.dvu.front := by simp [State.applyAnnounce]
@[simp] theorem State.applyAnnounce_dvu_gather (i : StationId) (a : AnnounceFields) : (s.applyAnnounce i a).dvu.gather = s.dvu.gather := by simp [State.applyAnnounce]
@[simp] theorem State.applyAnnounce_dvu_gatherExpired (i : StationId) (a : AnnounceFields) : (s.applyAnnounce i a).dvu.gatherExpired = s.dvu.gatherExpired := by simp [State.applyAnnounce]
@[simp] theorem State.applyAnnounce_dvu_holdSet (i : StationId) (a : AnnounceFields) : (s.applyAnnounce i a).dvu.holdSet = s.dvu.holdSet := by simp [State.applyAnnounce]
@[simp] theorem State.applyAnnounce_dvu_announce (i : StationId) (a : AnnounceFields) : (s.applyAnnounce i a).dvu.announce = s.dvu.announce := by simp [State.applyAnnounce]
@[simp] theorem State.applyAnnounce_dvu_gatherTimer (i : StationId) (a : AnnounceFields) : (s.applyAnnounce i a).dvu.gatherTimer = s.dvu.gatherTimer := by simp [State.applyAnnounce]
@[simp] theorem State.applyAnnounce_dvu_settle (i : StationId) (a : AnnounceFields) : (s.applyAnnounce i a).dvu.settle = s.dvu.settle := by simp [State.applyAnnounce]
@[simp] theorem State.applyAnnounce_dvu_holdLimit (i : StationId) (a : AnnounceFields) : (s.applyAnnounce i a).dvu.holdLimit = s.dvu.holdLimit := by simp [State.applyAnnounce]

/-! ### raiseView -/

@[simp] theorem State.raiseView_stc (b : Rank) : (s.raiseView b).stc = s.stc := by simp [State.raiseView]
@[simp] theorem State.raiseView_lif (b : Rank) : (s.raiseView b).lif = s.lif := by simp [State.raiseView]
@[simp] theorem State.raiseView_bsu (b : Rank) : (s.raiseView b).bsu = s.bsu := by simp [State.raiseView]
@[simp] theorem State.raiseView_pending (b : Rank) : (s.raiseView b).pending = s.pending := by simp [State.raiseView]
@[simp] theorem State.raiseView_dvu_epoch (b : Rank) : (s.raiseView b).dvu.epoch = s.dvu.epoch := by simp [State.raiseView]
@[simp] theorem State.raiseView_dvu_base (b : Rank) : (s.raiseView b).dvu.base = s.dvu.base := by simp [State.raiseView]
@[simp] theorem State.raiseView_dvu_front (b : Rank) : (s.raiseView b).dvu.front = s.dvu.front := by simp [State.raiseView]
@[simp] theorem State.raiseView_dvu_gather (b : Rank) : (s.raiseView b).dvu.gather = s.dvu.gather := by simp [State.raiseView]
@[simp] theorem State.raiseView_dvu_gatherExpired (b : Rank) : (s.raiseView b).dvu.gatherExpired = s.dvu.gatherExpired := by simp [State.raiseView]
@[simp] theorem State.raiseView_dvu_holdSet (b : Rank) : (s.raiseView b).dvu.holdSet = s.dvu.holdSet := by simp [State.raiseView]
@[simp] theorem State.raiseView_dvu_announce (b : Rank) : (s.raiseView b).dvu.announce = s.dvu.announce := by simp [State.raiseView]
@[simp] theorem State.raiseView_dvu_gatherTimer (b : Rank) : (s.raiseView b).dvu.gatherTimer = s.dvu.gatherTimer := by simp [State.raiseView]
@[simp] theorem State.raiseView_dvu_settle (b : Rank) : (s.raiseView b).dvu.settle = s.dvu.settle := by simp [State.raiseView]
@[simp] theorem State.raiseView_dvu_holdLimit (b : Rank) : (s.raiseView b).dvu.holdLimit = s.dvu.holdLimit := by simp [State.raiseView]

/-! ### viewCheck -/

@[simp] theorem State.viewCheck_stc (i : StationId) (a : AnnounceFields) : (s.viewCheck i a).stc = s.stc := by unfold State.viewCheck; split <;> simp
@[simp] theorem State.viewCheck_lif (i : StationId) (a : AnnounceFields) : (s.viewCheck i a).lif = s.lif := by unfold State.viewCheck; split <;> simp
@[simp] theorem State.viewCheck_bsu (i : StationId) (a : AnnounceFields) : (s.viewCheck i a).bsu = s.bsu := by unfold State.viewCheck; split <;> simp
@[simp] theorem State.viewCheck_pending (i : StationId) (a : AnnounceFields) : (s.viewCheck i a).pending = s.pending := by unfold State.viewCheck; split <;> simp
@[simp] theorem State.viewCheck_dvu_epoch (i : StationId) (a : AnnounceFields) : (s.viewCheck i a).dvu.epoch = s.dvu.epoch := by unfold State.viewCheck; split <;> simp
@[simp] theorem State.viewCheck_dvu_base (i : StationId) (a : AnnounceFields) : (s.viewCheck i a).dvu.base = s.dvu.base := by unfold State.viewCheck; split <;> simp
@[simp] theorem State.viewCheck_dvu_front (i : StationId) (a : AnnounceFields) : (s.viewCheck i a).dvu.front = s.dvu.front := by unfold State.viewCheck; split <;> simp
@[simp] theorem State.viewCheck_dvu_gather (i : StationId) (a : AnnounceFields) : (s.viewCheck i a).dvu.gather = s.dvu.gather := by unfold State.viewCheck; split <;> simp
@[simp] theorem State.viewCheck_dvu_gatherExpired (i : StationId) (a : AnnounceFields) : (s.viewCheck i a).dvu.gatherExpired = s.dvu.gatherExpired := by unfold State.viewCheck; split <;> simp
@[simp] theorem State.viewCheck_dvu_holdSet (i : StationId) (a : AnnounceFields) : (s.viewCheck i a).dvu.holdSet = s.dvu.holdSet := by unfold State.viewCheck; split <;> simp
@[simp] theorem State.viewCheck_dvu_announce (i : StationId) (a : AnnounceFields) : (s.viewCheck i a).dvu.announce = s.dvu.announce := by unfold State.viewCheck; split <;> simp
@[simp] theorem State.viewCheck_dvu_gatherTimer (i : StationId) (a : AnnounceFields) : (s.viewCheck i a).dvu.gatherTimer = s.dvu.gatherTimer := by unfold State.viewCheck; split <;> simp
@[simp] theorem State.viewCheck_dvu_settle (i : StationId) (a : AnnounceFields) : (s.viewCheck i a).dvu.settle = s.dvu.settle := by unfold State.viewCheck; split <;> simp
@[simp] theorem State.viewCheck_dvu_holdLimit (i : StationId) (a : AnnounceFields) : (s.viewCheck i a).dvu.holdLimit = s.dvu.holdLimit := by unfold State.viewCheck; split <;> simp

/-! ### catchUp -/

@[simp] theorem State.catchUp_stc (i : StationId) (e : Epoch) (a : AnnounceFields) : (s.catchUp i e a).stc = s.stc := by simp [State.catchUp]
@[simp] theorem State.catchUp_lif (i : StationId) (e : Epoch) (a : AnnounceFields) : (s.catchUp i e a).lif = s.lif := by simp [State.catchUp]
@[simp] theorem State.catchUp_pending (i : StationId) (e : Epoch) (a : AnnounceFields) : (s.catchUp i e a).pending = s.pending := by simp [State.catchUp]

/-! ### makeOwnPresent -/

@[simp] theorem State.makeOwnPresent_stc : s.makeOwnPresent.stc = s.stc := by simp [State.makeOwnPresent]
@[simp] theorem State.makeOwnPresent_lif : s.makeOwnPresent.lif = s.lif := by simp [State.makeOwnPresent]
@[simp] theorem State.makeOwnPresent_txq : s.makeOwnPresent.txq = s.txq := by simp [State.makeOwnPresent]
@[simp] theorem State.makeOwnPresent_bsu : s.makeOwnPresent.bsu = s.bsu := by simp [State.makeOwnPresent]
@[simp] theorem State.makeOwnPresent_qru : s.makeOwnPresent.qru = s.qru := by simp [State.makeOwnPresent]
@[simp] theorem State.makeOwnPresent_clg : s.makeOwnPresent.clg = s.clg := by simp [State.makeOwnPresent]
@[simp] theorem State.makeOwnPresent_lpt : s.makeOwnPresent.lpt = s.lpt := by simp [State.makeOwnPresent]
@[simp] theorem State.makeOwnPresent_pending : s.makeOwnPresent.pending = s.pending := by simp [State.makeOwnPresent]
@[simp] theorem State.makeOwnPresent_dvu_epoch : s.makeOwnPresent.dvu.epoch = s.dvu.epoch := by simp [State.makeOwnPresent]
@[simp] theorem State.makeOwnPresent_dvu_base : s.makeOwnPresent.dvu.base = s.dvu.base := by simp [State.makeOwnPresent]
@[simp] theorem State.makeOwnPresent_dvu_front : s.makeOwnPresent.dvu.front = s.dvu.front := by simp [State.makeOwnPresent]
@[simp] theorem State.makeOwnPresent_dvu_gather : s.makeOwnPresent.dvu.gather = s.dvu.gather := by simp [State.makeOwnPresent]
@[simp] theorem State.makeOwnPresent_dvu_gatherExpired : s.makeOwnPresent.dvu.gatherExpired = s.dvu.gatherExpired := by simp [State.makeOwnPresent]
@[simp] theorem State.makeOwnPresent_dvu_holdSet : s.makeOwnPresent.dvu.holdSet = s.dvu.holdSet := by simp [State.makeOwnPresent]
@[simp] theorem State.makeOwnPresent_dvu_announce : s.makeOwnPresent.dvu.announce = s.dvu.announce := by simp [State.makeOwnPresent]
@[simp] theorem State.makeOwnPresent_dvu_gatherTimer : s.makeOwnPresent.dvu.gatherTimer = s.dvu.gatherTimer := by simp [State.makeOwnPresent]
@[simp] theorem State.makeOwnPresent_dvu_settle : s.makeOwnPresent.dvu.settle = s.dvu.settle := by simp [State.makeOwnPresent]
@[simp] theorem State.makeOwnPresent_dvu_holdLimit : s.makeOwnPresent.dvu.holdLimit = s.dvu.holdLimit := by simp [State.makeOwnPresent]

/-! ### adopt -/

@[simp] theorem State.adopt_lif (i : StationId) (e : Epoch) (a : AnnounceFields) : (s.adopt i e a).lif = s.lif := by simp [State.adopt]
@[simp] theorem State.adopt_clg (i : StationId) (e : Epoch) (a : AnnounceFields) : (s.adopt i e a).clg = s.clg := by simp [State.adopt]
@[simp] theorem State.adopt_lpt (i : StationId) (e : Epoch) (a : AnnounceFields) : (s.adopt i e a).lpt = s.lpt := by simp [State.adopt]
@[simp] theorem State.adopt_pending (i : StationId) (e : Epoch) (a : AnnounceFields) : (s.adopt i e a).pending = s.pending := by simp [State.adopt]

/-! ### found -/

@[simp] theorem State.found_lif : s.found.lif = s.lif := by simp [State.found]
@[simp] theorem State.found_clg : s.found.clg = s.clg := by simp [State.found]
@[simp] theorem State.found_lpt : s.found.lpt = s.lpt := by simp [State.found]
@[simp] theorem State.found_pending : s.found.pending = s.pending := by simp [State.found]

/-! ### blockBoard -/

@[simp] theorem State.blockBoard_stc : s.blockBoard.stc = s.stc := by unfold State.blockBoard; split <;> simp
@[simp] theorem State.blockBoard_lif : s.blockBoard.lif = s.lif := by unfold State.blockBoard; split <;> simp
@[simp] theorem State.blockBoard_qru : s.blockBoard.qru = s.qru := by unfold State.blockBoard; split <;> simp
@[simp] theorem State.blockBoard_clg : s.blockBoard.clg = s.clg := by unfold State.blockBoard; split <;> simp
@[simp] theorem State.blockBoard_lpt : s.blockBoard.lpt = s.lpt := by unfold State.blockBoard; split <;> simp
@[simp] theorem State.blockBoard_pending : s.blockBoard.pending = s.pending := by unfold State.blockBoard; split <;> simp
@[simp] theorem State.blockBoard_dvu_epoch : s.blockBoard.dvu.epoch = s.dvu.epoch := by unfold State.blockBoard; split <;> simp
@[simp] theorem State.blockBoard_dvu_base : s.blockBoard.dvu.base = s.dvu.base := by unfold State.blockBoard; split <;> simp
@[simp] theorem State.blockBoard_dvu_front : s.blockBoard.dvu.front = s.dvu.front := by unfold State.blockBoard; split <;> simp
@[simp] theorem State.blockBoard_dvu_gather : s.blockBoard.dvu.gather = s.dvu.gather := by unfold State.blockBoard; split <;> simp
@[simp] theorem State.blockBoard_dvu_gatherExpired : s.blockBoard.dvu.gatherExpired = s.dvu.gatherExpired := by unfold State.blockBoard; split <;> simp
@[simp] theorem State.blockBoard_dvu_holdSet : s.blockBoard.dvu.holdSet = s.dvu.holdSet := by unfold State.blockBoard; split <;> simp
@[simp] theorem State.blockBoard_dvu_announce : s.blockBoard.dvu.announce = s.dvu.announce := by unfold State.blockBoard; split <;> simp
@[simp] theorem State.blockBoard_dvu_gatherTimer : s.blockBoard.dvu.gatherTimer = s.dvu.gatherTimer := by unfold State.blockBoard; split <;> simp
@[simp] theorem State.blockBoard_dvu_settle : s.blockBoard.dvu.settle = s.dvu.settle := by unfold State.blockBoard; split <;> simp
@[simp] theorem State.blockBoard_dvu_holdLimit : s.blockBoard.dvu.holdLimit = s.dvu.holdLimit := by unfold State.blockBoard; split <;> simp

/-! ### hear -/

@[simp] theorem State.hear_stc (i : StationId) : (s.hear i).stc = s.stc := by simp [State.hear]
@[simp] theorem State.hear_lif (i : StationId) : (s.hear i).lif = s.lif := by simp [State.hear]
@[simp] theorem State.hear_txq (i : StationId) : (s.hear i).txq = s.txq := by simp [State.hear]
@[simp] theorem State.hear_bsu (i : StationId) : (s.hear i).bsu = s.bsu := by simp [State.hear]
@[simp] theorem State.hear_qru (i : StationId) : (s.hear i).qru = s.qru := by simp [State.hear]
@[simp] theorem State.hear_clg (i : StationId) : (s.hear i).clg = s.clg := by simp [State.hear]
@[simp] theorem State.hear_lpt (i : StationId) : (s.hear i).lpt = s.lpt := by simp [State.hear]
@[simp] theorem State.hear_pending (i : StationId) : (s.hear i).pending = s.pending := by simp [State.hear]
@[simp] theorem State.hear_dvu_epoch (i : StationId) : (s.hear i).dvu.epoch = s.dvu.epoch := by simp [State.hear]
@[simp] theorem State.hear_dvu_base (i : StationId) : (s.hear i).dvu.base = s.dvu.base := by simp [State.hear]
@[simp] theorem State.hear_dvu_front (i : StationId) : (s.hear i).dvu.front = s.dvu.front := by simp [State.hear]
@[simp] theorem State.hear_dvu_gather (i : StationId) : (s.hear i).dvu.gather = s.dvu.gather := by simp [State.hear]
@[simp] theorem State.hear_dvu_gatherExpired (i : StationId) : (s.hear i).dvu.gatherExpired = s.dvu.gatherExpired := by simp [State.hear]
@[simp] theorem State.hear_dvu_holdSet (i : StationId) : (s.hear i).dvu.holdSet = s.dvu.holdSet := by simp [State.hear]
@[simp] theorem State.hear_dvu_announce (i : StationId) : (s.hear i).dvu.announce = s.dvu.announce := by simp [State.hear]
@[simp] theorem State.hear_dvu_gatherTimer (i : StationId) : (s.hear i).dvu.gatherTimer = s.dvu.gatherTimer := by simp [State.hear]
@[simp] theorem State.hear_dvu_settle (i : StationId) : (s.hear i).dvu.settle = s.dvu.settle := by simp [State.hear]
@[simp] theorem State.hear_dvu_holdLimit (i : StationId) : (s.hear i).dvu.holdLimit = s.dvu.holdLimit := by simp [State.hear]

/-! ### cancelFor -/

@[simp] theorem State.cancelFor_stc (f : Frame) : (s.cancelFor f).stc = s.stc := by unfold State.cancelFor; dsimp only; split <;> simp
@[simp] theorem State.cancelFor_lif (f : Frame) : (s.cancelFor f).lif = s.lif := by unfold State.cancelFor; dsimp only; split <;> simp
@[simp] theorem State.cancelFor_dvu (f : Frame) : (s.cancelFor f).dvu = s.dvu := by unfold State.cancelFor; dsimp only; split <;> simp
@[simp] theorem State.cancelFor_bsu (f : Frame) : (s.cancelFor f).bsu = s.bsu := by unfold State.cancelFor; dsimp only; split <;> simp
@[simp] theorem State.cancelFor_qru (f : Frame) : (s.cancelFor f).qru = s.qru := by unfold State.cancelFor; dsimp only; split <;> simp
@[simp] theorem State.cancelFor_clg (f : Frame) : (s.cancelFor f).clg = s.clg := by unfold State.cancelFor; dsimp only; split <;> simp
@[simp] theorem State.cancelFor_lpt (f : Frame) : (s.cancelFor f).lpt = s.lpt := by unfold State.cancelFor; dsimp only; split <;> simp
@[simp] theorem State.cancelFor_pending (f : Frame) : (s.cancelFor f).pending = s.pending := by unfold State.cancelFor; dsimp only; split <;> simp

/-! ### applyRemembered -/

@[simp] theorem State.applyRemembered_stc (r : Option Remembered) (b : Option Rank) : (s.applyRemembered r b).stc = s.stc := by unfold State.applyRemembered; split <;> (try split) <;> (try split) <;> simp
@[simp] theorem State.applyRemembered_lif (r : Option Remembered) (b : Option Rank) : (s.applyRemembered r b).lif = s.lif := by unfold State.applyRemembered; split <;> (try split) <;> (try split) <;> simp
@[simp] theorem State.applyRemembered_dvu (r : Option Remembered) (b : Option Rank) : (s.applyRemembered r b).dvu = s.dvu := by unfold State.applyRemembered; split <;> (try split) <;> (try split) <;> simp
@[simp] theorem State.applyRemembered_bsu (r : Option Remembered) (b : Option Rank) : (s.applyRemembered r b).bsu = s.bsu := by unfold State.applyRemembered; split <;> (try split) <;> (try split) <;> simp
@[simp] theorem State.applyRemembered_clg (r : Option Remembered) (b : Option Rank) : (s.applyRemembered r b).clg = s.clg := by unfold State.applyRemembered; split <;> (try split) <;> (try split) <;> simp
@[simp] theorem State.applyRemembered_lpt (r : Option Remembered) (b : Option Rank) : (s.applyRemembered r b).lpt = s.lpt := by unfold State.applyRemembered; split <;> (try split) <;> (try split) <;> simp
@[simp] theorem State.applyRemembered_pending (r : Option Remembered) (b : Option Rank) : (s.applyRemembered r b).pending = s.pending := by unfold State.applyRemembered; split <;> (try split) <;> (try split) <;> simp

/-! ### markLocal -/

@[simp] theorem State.markLocal_stc (i : StationId) (k : Rank) : (s.markLocal i k).stc = s.stc := by unfold State.markLocal; split <;> simp
@[simp] theorem State.markLocal_lif (i : StationId) (k : Rank) : (s.markLocal i k).lif = s.lif := by unfold State.markLocal; split <;> simp
@[simp] theorem State.markLocal_txq (i : StationId) (k : Rank) : (s.markLocal i k).txq = s.txq := by unfold State.markLocal; split <;> simp
@[simp] theorem State.markLocal_bsu (i : StationId) (k : Rank) : (s.markLocal i k).bsu = s.bsu := by unfold State.markLocal; split <;> simp
@[simp] theorem State.markLocal_qru (i : StationId) (k : Rank) : (s.markLocal i k).qru = s.qru := by unfold State.markLocal; split <;> simp
@[simp] theorem State.markLocal_clg (i : StationId) (k : Rank) : (s.markLocal i k).clg = s.clg := by unfold State.markLocal; split <;> simp
@[simp] theorem State.markLocal_lpt (i : StationId) (k : Rank) : (s.markLocal i k).lpt = s.lpt := by unfold State.markLocal; split <;> simp
@[simp] theorem State.markLocal_pending (i : StationId) (k : Rank) : (s.markLocal i k).pending = s.pending := by unfold State.markLocal; split <;> simp
@[simp] theorem State.markLocal_dvu_epoch (i : StationId) (k : Rank) : (s.markLocal i k).dvu.epoch = s.dvu.epoch := by unfold State.markLocal; split <;> simp
@[simp] theorem State.markLocal_dvu_base (i : StationId) (k : Rank) : (s.markLocal i k).dvu.base = s.dvu.base := by unfold State.markLocal; split <;> simp
@[simp] theorem State.markLocal_dvu_front (i : StationId) (k : Rank) : (s.markLocal i k).dvu.front = s.dvu.front := by unfold State.markLocal; split <;> simp
@[simp] theorem State.markLocal_dvu_gather (i : StationId) (k : Rank) : (s.markLocal i k).dvu.gather = s.dvu.gather := by unfold State.markLocal; split <;> simp
@[simp] theorem State.markLocal_dvu_gatherExpired (i : StationId) (k : Rank) : (s.markLocal i k).dvu.gatherExpired = s.dvu.gatherExpired := by unfold State.markLocal; split <;> simp
@[simp] theorem State.markLocal_dvu_holdSet (i : StationId) (k : Rank) : (s.markLocal i k).dvu.holdSet = s.dvu.holdSet := by unfold State.markLocal; split <;> simp
@[simp] theorem State.markLocal_dvu_announce (i : StationId) (k : Rank) : (s.markLocal i k).dvu.announce = s.dvu.announce := by unfold State.markLocal; split <;> simp
@[simp] theorem State.markLocal_dvu_gatherTimer (i : StationId) (k : Rank) : (s.markLocal i k).dvu.gatherTimer = s.dvu.gatherTimer := by unfold State.markLocal; split <;> simp
@[simp] theorem State.markLocal_dvu_settle (i : StationId) (k : Rank) : (s.markLocal i k).dvu.settle = s.dvu.settle := by unfold State.markLocal; split <;> simp
@[simp] theorem State.markLocal_dvu_holdLimit (i : StationId) (k : Rank) : (s.markLocal i k).dvu.holdLimit = s.dvu.holdLimit := by unfold State.markLocal; split <;> simp

/-! ### refresh -/

@[simp] theorem State.refresh_stc (i : StationId) (a : AnnounceFields) : (s.refresh i a).stc = s.stc := by simp [State.refresh]
@[simp] theorem State.refresh_lif (i : StationId) (a : AnnounceFields) : (s.refresh i a).lif = s.lif := by simp [State.refresh]
@[simp] theorem State.refresh_txq (i : StationId) (a : AnnounceFields) : (s.refresh i a).txq = s.txq := by simp [State.refresh]
@[simp] theorem State.refresh_bsu (i : StationId) (a : AnnounceFields) : (s.refresh i a).bsu = s.bsu := by simp [State.refresh]
@[simp] theorem State.refresh_qru (i : StationId) (a : AnnounceFields) : (s.refresh i a).qru = s.qru := by simp [State.refresh]
@[simp] theorem State.refresh_clg (i : StationId) (a : AnnounceFields) : (s.refresh i a).clg = s.clg := by simp [State.refresh]
@[simp] theorem State.refresh_lpt (i : StationId) (a : AnnounceFields) : (s.refresh i a).lpt = s.lpt := by simp [State.refresh]
@[simp] theorem State.refresh_pending (i : StationId) (a : AnnounceFields) : (s.refresh i a).pending = s.pending := by simp [State.refresh]
@[simp] theorem State.refresh_dvu_epoch (i : StationId) (a : AnnounceFields) : (s.refresh i a).dvu.epoch = s.dvu.epoch := by simp [State.refresh]
@[simp] theorem State.refresh_dvu_base (i : StationId) (a : AnnounceFields) : (s.refresh i a).dvu.base = s.dvu.base := by simp [State.refresh]
@[simp] theorem State.refresh_dvu_front (i : StationId) (a : AnnounceFields) : (s.refresh i a).dvu.front = s.dvu.front := by simp [State.refresh]
@[simp] theorem State.refresh_dvu_gather (i : StationId) (a : AnnounceFields) : (s.refresh i a).dvu.gather = s.dvu.gather := by simp [State.refresh]
@[simp] theorem State.refresh_dvu_gatherExpired (i : StationId) (a : AnnounceFields) : (s.refresh i a).dvu.gatherExpired = s.dvu.gatherExpired := by simp [State.refresh]
@[simp] theorem State.refresh_dvu_holdSet (i : StationId) (a : AnnounceFields) : (s.refresh i a).dvu.holdSet = s.dvu.holdSet := by simp [State.refresh]
@[simp] theorem State.refresh_dvu_announce (i : StationId) (a : AnnounceFields) : (s.refresh i a).dvu.announce = s.dvu.announce := by simp [State.refresh]
@[simp] theorem State.refresh_dvu_gatherTimer (i : StationId) (a : AnnounceFields) : (s.refresh i a).dvu.gatherTimer = s.dvu.gatherTimer := by simp [State.refresh]
@[simp] theorem State.refresh_dvu_settle (i : StationId) (a : AnnounceFields) : (s.refresh i a).dvu.settle = s.dvu.settle := by simp [State.refresh]
@[simp] theorem State.refresh_dvu_holdLimit (i : StationId) (a : AnnounceFields) : (s.refresh i a).dvu.holdLimit = s.dvu.holdLimit := by simp [State.refresh]

/-! ### removeMember -/

@[simp] theorem State.removeMember_stc (i : StationId) : (s.removeMember i).stc = s.stc := by unfold State.removeMember; split <;> simp
@[simp] theorem State.removeMember_lif (i : StationId) : (s.removeMember i).lif = s.lif := by unfold State.removeMember; split <;> simp
@[simp] theorem State.removeMember_txq (i : StationId) : (s.removeMember i).txq = s.txq := by unfold State.removeMember; split <;> simp
@[simp] theorem State.removeMember_bsu (i : StationId) : (s.removeMember i).bsu = s.bsu := by unfold State.removeMember; split <;> simp
@[simp] theorem State.removeMember_qru (i : StationId) : (s.removeMember i).qru = s.qru := by unfold State.removeMember; split <;> simp
@[simp] theorem State.removeMember_clg (i : StationId) : (s.removeMember i).clg = s.clg := by unfold State.removeMember; split <;> simp
@[simp] theorem State.removeMember_lpt (i : StationId) : (s.removeMember i).lpt = s.lpt := by unfold State.removeMember; split <;> simp
@[simp] theorem State.removeMember_pending (i : StationId) : (s.removeMember i).pending = s.pending := by unfold State.removeMember; split <;> simp
@[simp] theorem State.removeMember_dvu_epoch (i : StationId) : (s.removeMember i).dvu.epoch = s.dvu.epoch := by unfold State.removeMember; split <;> simp
@[simp] theorem State.removeMember_dvu_base (i : StationId) : (s.removeMember i).dvu.base = s.dvu.base := by unfold State.removeMember; split <;> simp
@[simp] theorem State.removeMember_dvu_front (i : StationId) : (s.removeMember i).dvu.front = s.dvu.front := by unfold State.removeMember; split <;> simp
@[simp] theorem State.removeMember_dvu_gather (i : StationId) : (s.removeMember i).dvu.gather = s.dvu.gather := by unfold State.removeMember; split <;> simp
@[simp] theorem State.removeMember_dvu_gatherExpired (i : StationId) : (s.removeMember i).dvu.gatherExpired = s.dvu.gatherExpired := by unfold State.removeMember; split <;> simp
@[simp] theorem State.removeMember_dvu_announce (i : StationId) : (s.removeMember i).dvu.announce = s.dvu.announce := by unfold State.removeMember; split <;> simp
@[simp] theorem State.removeMember_dvu_gatherTimer (i : StationId) : (s.removeMember i).dvu.gatherTimer = s.dvu.gatherTimer := by unfold State.removeMember; split <;> simp
@[simp] theorem State.removeMember_dvu_settle (i : StationId) : (s.removeMember i).dvu.settle = s.dvu.settle := by unfold State.removeMember; split <;> simp
@[simp] theorem State.removeMember_dvu_holdLimit (i : StationId) : (s.removeMember i).dvu.holdLimit = s.dvu.holdLimit := by unfold State.removeMember; split <;> simp

/-! ### stopQuiet -/

@[simp] theorem State.stopQuiet_lif : s.stopQuiet.lif = s.lif := by unfold State.stopQuiet; split <;> rfl
@[simp] theorem State.stopQuiet_txq : s.stopQuiet.txq = s.txq := by unfold State.stopQuiet; split <;> rfl
@[simp] theorem State.stopQuiet_dvu : s.stopQuiet.dvu = s.dvu := by unfold State.stopQuiet; split <;> rfl
@[simp] theorem State.stopQuiet_bsu : s.stopQuiet.bsu = s.bsu := by unfold State.stopQuiet; split <;> rfl
@[simp] theorem State.stopQuiet_qru : s.stopQuiet.qru = s.qru := by unfold State.stopQuiet; split <;> rfl
@[simp] theorem State.stopQuiet_clg : s.stopQuiet.clg = s.clg := by unfold State.stopQuiet; split <;> rfl
@[simp] theorem State.stopQuiet_lpt : s.stopQuiet.lpt = s.lpt := by unfold State.stopQuiet; split <;> rfl
@[simp] theorem State.stopQuiet_pending : s.stopQuiet.pending = s.pending := by unfold State.stopQuiet; split <;> rfl

/-! ### restartQuiet -/

@[simp] theorem State.restartQuiet_lif : s.restartQuiet.lif = s.lif := by unfold State.restartQuiet; split <;> rfl
@[simp] theorem State.restartQuiet_txq : s.restartQuiet.txq = s.txq := by unfold State.restartQuiet; split <;> rfl
@[simp] theorem State.restartQuiet_dvu : s.restartQuiet.dvu = s.dvu := by unfold State.restartQuiet; split <;> rfl
@[simp] theorem State.restartQuiet_bsu : s.restartQuiet.bsu = s.bsu := by unfold State.restartQuiet; split <;> rfl
@[simp] theorem State.restartQuiet_qru : s.restartQuiet.qru = s.qru := by unfold State.restartQuiet; split <;> rfl
@[simp] theorem State.restartQuiet_clg : s.restartQuiet.clg = s.clg := by unfold State.restartQuiet; split <;> rfl
@[simp] theorem State.restartQuiet_lpt : s.restartQuiet.lpt = s.lpt := by unfold State.restartQuiet; split <;> rfl
@[simp] theorem State.restartQuiet_pending : s.restartQuiet.pending = s.pending := by unfold State.restartQuiet; split <;> rfl

/-! ### endRun -/

@[simp] theorem State.endRun_stc : s.endRun.stc = s.stc := by simp [State.endRun]
@[simp] theorem State.endRun_txq : s.endRun.txq = s.txq := by simp [State.endRun]
@[simp] theorem State.endRun_dvu : s.endRun.dvu = s.dvu := by simp [State.endRun]
@[simp] theorem State.endRun_bsu : s.endRun.bsu = s.bsu := by simp [State.endRun]
@[simp] theorem State.endRun_qru : s.endRun.qru = s.qru := by simp [State.endRun]
@[simp] theorem State.endRun_clg : s.endRun.clg = s.clg := by simp [State.endRun]
@[simp] theorem State.endRun_lpt : s.endRun.lpt = s.lpt := by simp [State.endRun]
@[simp] theorem State.endRun_pending : s.endRun.pending = s.pending := by simp [State.endRun]

/-! ### startHoldLimit -/

@[simp] theorem State.startHoldLimit_stc (i : StationId) : (s.startHoldLimit i).stc = s.stc := by unfold State.startHoldLimit; split <;> simp
@[simp] theorem State.startHoldLimit_lif (i : StationId) : (s.startHoldLimit i).lif = s.lif := by unfold State.startHoldLimit; split <;> simp
@[simp] theorem State.startHoldLimit_txq (i : StationId) : (s.startHoldLimit i).txq = s.txq := by unfold State.startHoldLimit; split <;> simp
@[simp] theorem State.startHoldLimit_bsu (i : StationId) : (s.startHoldLimit i).bsu = s.bsu := by unfold State.startHoldLimit; split <;> simp
@[simp] theorem State.startHoldLimit_qru (i : StationId) : (s.startHoldLimit i).qru = s.qru := by unfold State.startHoldLimit; split <;> simp
@[simp] theorem State.startHoldLimit_clg (i : StationId) : (s.startHoldLimit i).clg = s.clg := by unfold State.startHoldLimit; split <;> simp
@[simp] theorem State.startHoldLimit_lpt (i : StationId) : (s.startHoldLimit i).lpt = s.lpt := by unfold State.startHoldLimit; split <;> simp
@[simp] theorem State.startHoldLimit_pending (i : StationId) : (s.startHoldLimit i).pending = s.pending := by unfold State.startHoldLimit; split <;> simp
@[simp] theorem State.startHoldLimit_dvu_epoch (i : StationId) : (s.startHoldLimit i).dvu.epoch = s.dvu.epoch := by unfold State.startHoldLimit; split <;> simp
@[simp] theorem State.startHoldLimit_dvu_base (i : StationId) : (s.startHoldLimit i).dvu.base = s.dvu.base := by unfold State.startHoldLimit; split <;> simp
@[simp] theorem State.startHoldLimit_dvu_front (i : StationId) : (s.startHoldLimit i).dvu.front = s.dvu.front := by unfold State.startHoldLimit; split <;> simp
@[simp] theorem State.startHoldLimit_dvu_gather (i : StationId) : (s.startHoldLimit i).dvu.gather = s.dvu.gather := by unfold State.startHoldLimit; split <;> simp
@[simp] theorem State.startHoldLimit_dvu_gatherExpired (i : StationId) : (s.startHoldLimit i).dvu.gatherExpired = s.dvu.gatherExpired := by unfold State.startHoldLimit; split <;> simp
@[simp] theorem State.startHoldLimit_dvu_holdSet (i : StationId) : (s.startHoldLimit i).dvu.holdSet = s.dvu.holdSet := by unfold State.startHoldLimit; split <;> simp
@[simp] theorem State.startHoldLimit_dvu_announce (i : StationId) : (s.startHoldLimit i).dvu.announce = s.dvu.announce := by unfold State.startHoldLimit; split <;> simp
@[simp] theorem State.startHoldLimit_dvu_gatherTimer (i : StationId) : (s.startHoldLimit i).dvu.gatherTimer = s.dvu.gatherTimer := by unfold State.startHoldLimit; split <;> simp
@[simp] theorem State.startHoldLimit_dvu_settle (i : StationId) : (s.startHoldLimit i).dvu.settle = s.dvu.settle := by unfold State.startHoldLimit; split <;> simp

/-! ### stopHoldLimit -/

@[simp] theorem State.stopHoldLimit_stc (i : StationId) : (s.stopHoldLimit i).stc = s.stc := by unfold State.stopHoldLimit; split <;> simp
@[simp] theorem State.stopHoldLimit_lif (i : StationId) : (s.stopHoldLimit i).lif = s.lif := by unfold State.stopHoldLimit; split <;> simp
@[simp] theorem State.stopHoldLimit_txq (i : StationId) : (s.stopHoldLimit i).txq = s.txq := by unfold State.stopHoldLimit; split <;> simp
@[simp] theorem State.stopHoldLimit_bsu (i : StationId) : (s.stopHoldLimit i).bsu = s.bsu := by unfold State.stopHoldLimit; split <;> simp
@[simp] theorem State.stopHoldLimit_qru (i : StationId) : (s.stopHoldLimit i).qru = s.qru := by unfold State.stopHoldLimit; split <;> simp
@[simp] theorem State.stopHoldLimit_clg (i : StationId) : (s.stopHoldLimit i).clg = s.clg := by unfold State.stopHoldLimit; split <;> simp
@[simp] theorem State.stopHoldLimit_lpt (i : StationId) : (s.stopHoldLimit i).lpt = s.lpt := by unfold State.stopHoldLimit; split <;> simp
@[simp] theorem State.stopHoldLimit_pending (i : StationId) : (s.stopHoldLimit i).pending = s.pending := by unfold State.stopHoldLimit; split <;> simp
@[simp] theorem State.stopHoldLimit_dvu_epoch (i : StationId) : (s.stopHoldLimit i).dvu.epoch = s.dvu.epoch := by unfold State.stopHoldLimit; split <;> simp
@[simp] theorem State.stopHoldLimit_dvu_base (i : StationId) : (s.stopHoldLimit i).dvu.base = s.dvu.base := by unfold State.stopHoldLimit; split <;> simp
@[simp] theorem State.stopHoldLimit_dvu_front (i : StationId) : (s.stopHoldLimit i).dvu.front = s.dvu.front := by unfold State.stopHoldLimit; split <;> simp
@[simp] theorem State.stopHoldLimit_dvu_gather (i : StationId) : (s.stopHoldLimit i).dvu.gather = s.dvu.gather := by unfold State.stopHoldLimit; split <;> simp
@[simp] theorem State.stopHoldLimit_dvu_gatherExpired (i : StationId) : (s.stopHoldLimit i).dvu.gatherExpired = s.dvu.gatherExpired := by unfold State.stopHoldLimit; split <;> simp
@[simp] theorem State.stopHoldLimit_dvu_holdSet (i : StationId) : (s.stopHoldLimit i).dvu.holdSet = s.dvu.holdSet := by unfold State.stopHoldLimit; split <;> simp
@[simp] theorem State.stopHoldLimit_dvu_announce (i : StationId) : (s.stopHoldLimit i).dvu.announce = s.dvu.announce := by unfold State.stopHoldLimit; split <;> simp
@[simp] theorem State.stopHoldLimit_dvu_gatherTimer (i : StationId) : (s.stopHoldLimit i).dvu.gatherTimer = s.dvu.gatherTimer := by unfold State.stopHoldLimit; split <;> simp
@[simp] theorem State.stopHoldLimit_dvu_settle (i : StationId) : (s.stopHoldLimit i).dvu.settle = s.dvu.settle := by unfold State.stopHoldLimit; split <;> simp

/-! ### announceRule -/

@[simp] theorem State.announceRule_stc (i : StationId) (e : Epoch) (a : AnnounceFields) : (s.announceRule i e a).stc = s.stc := by unfold State.announceRule State.announceEqual; split <;> (try split) <;> simp
@[simp] theorem State.announceRule_lif (i : StationId) (e : Epoch) (a : AnnounceFields) : (s.announceRule i e a).lif = s.lif := by unfold State.announceRule State.announceEqual; split <;> (try split) <;> simp
@[simp] theorem State.announceRule_pending (i : StationId) (e : Epoch) (a : AnnounceFields) : (s.announceRule i e a).pending = s.pending := by unfold State.announceRule State.announceEqual; split <;> (try split) <;> simp

/-! ### advanceRule -/

@[simp] theorem State.advanceRule_stc (i : StationId) (e : Epoch) (o n : Front) : (s.advanceRule i e o n).stc = s.stc := by unfold State.advanceRule; split <;> simp
@[simp] theorem State.advanceRule_lif (i : StationId) (e : Epoch) (o n : Front) : (s.advanceRule i e o n).lif = s.lif := by unfold State.advanceRule; split <;> simp
@[simp] theorem State.advanceRule_clg (i : StationId) (e : Epoch) (o n : Front) : (s.advanceRule i e o n).clg = s.clg := by unfold State.advanceRule; split <;> simp
@[simp] theorem State.advanceRule_lpt (i : StationId) (e : Epoch) (o n : Front) : (s.advanceRule i e o n).lpt = s.lpt := by unfold State.advanceRule; split <;> simp
@[simp] theorem State.advanceRule_pending (i : StationId) (e : Epoch) (o n : Front) : (s.advanceRule i e o n).pending = s.pending := by unfold State.advanceRule; split <;> simp

/-! ### rankTimeoutRule -/

@[simp] theorem State.rankTimeoutRule_stc (i : StationId) (e : Epoch) (k : Rank) : (s.rankTimeoutRule i e k).stc = s.stc := by unfold State.rankTimeoutRule; split <;> simp
@[simp] theorem State.rankTimeoutRule_lif (i : StationId) (e : Epoch) (k : Rank) : (s.rankTimeoutRule i e k).lif = s.lif := by unfold State.rankTimeoutRule; split <;> simp
@[simp] theorem State.rankTimeoutRule_bsu (i : StationId) (e : Epoch) (k : Rank) : (s.rankTimeoutRule i e k).bsu = s.bsu := by unfold State.rankTimeoutRule; split <;> simp
@[simp] theorem State.rankTimeoutRule_clg (i : StationId) (e : Epoch) (k : Rank) : (s.rankTimeoutRule i e k).clg = s.clg := by unfold State.rankTimeoutRule; split <;> simp
@[simp] theorem State.rankTimeoutRule_lpt (i : StationId) (e : Epoch) (k : Rank) : (s.rankTimeoutRule i e k).lpt = s.lpt := by unfold State.rankTimeoutRule; split <;> simp
@[simp] theorem State.rankTimeoutRule_pending (i : StationId) (e : Epoch) (k : Rank) : (s.rankTimeoutRule i e k).pending = s.pending := by unfold State.rankTimeoutRule; split <;> simp

/-! ### memberSilentRule -/

@[simp] theorem State.memberSilentRule_stc (i : StationId) (e : Epoch) (t : StationId) : (s.memberSilentRule i e t).stc = s.stc := by unfold State.memberSilentRule; split <;> (try split) <;> simp
@[simp] theorem State.memberSilentRule_lif (i : StationId) (e : Epoch) (t : StationId) : (s.memberSilentRule i e t).lif = s.lif := by unfold State.memberSilentRule; split <;> (try split) <;> simp
@[simp] theorem State.memberSilentRule_bsu (i : StationId) (e : Epoch) (t : StationId) : (s.memberSilentRule i e t).bsu = s.bsu := by unfold State.memberSilentRule; split <;> (try split) <;> simp
@[simp] theorem State.memberSilentRule_clg (i : StationId) (e : Epoch) (t : StationId) : (s.memberSilentRule i e t).clg = s.clg := by unfold State.memberSilentRule; split <;> (try split) <;> simp
@[simp] theorem State.memberSilentRule_lpt (i : StationId) (e : Epoch) (t : StationId) : (s.memberSilentRule i e t).lpt = s.lpt := by unfold State.memberSilentRule; split <;> (try split) <;> simp
@[simp] theorem State.memberSilentRule_pending (i : StationId) (e : Epoch) (t : StationId) : (s.memberSilentRule i e t).pending = s.pending := by unfold State.memberSilentRule; split <;> (try split) <;> simp

/-! ### faultRule -/

@[simp] theorem State.faultRule_stc (i : StationId) (e : Epoch) (f : FaultFields) : (s.faultRule i e f).stc = s.stc := by unfold State.faultRule State.applyFault; split <;> (try split) <;> simp
@[simp] theorem State.faultRule_lif (i : StationId) (e : Epoch) (f : FaultFields) : (s.faultRule i e f).lif = s.lif := by unfold State.faultRule State.applyFault; split <;> (try split) <;> simp
@[simp] theorem State.faultRule_pending (i : StationId) (e : Epoch) (f : FaultFields) : (s.faultRule i e f).pending = s.pending := by unfold State.faultRule State.applyFault; split <;> (try split) <;> simp

/-! ### holdRule -/

@[simp] theorem State.holdRule_stc (i : StationId) : (s.holdRule i).stc = s.stc := by unfold State.holdRule; split <;> simp
@[simp] theorem State.holdRule_lif (i : StationId) : (s.holdRule i).lif = s.lif := by unfold State.holdRule; split <;> simp
@[simp] theorem State.holdRule_bsu (i : StationId) : (s.holdRule i).bsu = s.bsu := by unfold State.holdRule; split <;> simp
@[simp] theorem State.holdRule_qru (i : StationId) : (s.holdRule i).qru = s.qru := by unfold State.holdRule; split <;> simp
@[simp] theorem State.holdRule_clg (i : StationId) : (s.holdRule i).clg = s.clg := by unfold State.holdRule; split <;> simp
@[simp] theorem State.holdRule_lpt (i : StationId) : (s.holdRule i).lpt = s.lpt := by unfold State.holdRule; split <;> simp
@[simp] theorem State.holdRule_pending (i : StationId) : (s.holdRule i).pending = s.pending := by unfold State.holdRule; split <;> simp

/-! ### resumeRule -/

@[simp] theorem State.resumeRule_stc (i : StationId) : (s.resumeRule i).stc = s.stc := by simp [State.resumeRule]
@[simp] theorem State.resumeRule_lif (i : StationId) : (s.resumeRule i).lif = s.lif := by simp [State.resumeRule]
@[simp] theorem State.resumeRule_txq (i : StationId) : (s.resumeRule i).txq = s.txq := by simp [State.resumeRule]
@[simp] theorem State.resumeRule_bsu (i : StationId) : (s.resumeRule i).bsu = s.bsu := by simp [State.resumeRule]
@[simp] theorem State.resumeRule_qru (i : StationId) : (s.resumeRule i).qru = s.qru := by simp [State.resumeRule]
@[simp] theorem State.resumeRule_clg (i : StationId) : (s.resumeRule i).clg = s.clg := by simp [State.resumeRule]
@[simp] theorem State.resumeRule_lpt (i : StationId) : (s.resumeRule i).lpt = s.lpt := by simp [State.resumeRule]
@[simp] theorem State.resumeRule_pending (i : StationId) : (s.resumeRule i).pending = s.pending := by simp [State.resumeRule]

/-! ### readyRule -/

@[simp] theorem State.readyRule_stc (i : StationId) (e : Epoch) (k : Rank) : (s.readyRule i e k).stc = s.stc := by unfold State.readyRule; split <;> simp
@[simp] theorem State.readyRule_lif (i : StationId) (e : Epoch) (k : Rank) : (s.readyRule i e k).lif = s.lif := by unfold State.readyRule; split <;> simp
@[simp] theorem State.readyRule_txq (i : StationId) (e : Epoch) (k : Rank) : (s.readyRule i e k).txq = s.txq := by unfold State.readyRule; split <;> simp
@[simp] theorem State.readyRule_bsu (i : StationId) (e : Epoch) (k : Rank) : (s.readyRule i e k).bsu = s.bsu := by unfold State.readyRule; split <;> simp
@[simp] theorem State.readyRule_qru (i : StationId) (e : Epoch) (k : Rank) : (s.readyRule i e k).qru = s.qru := by unfold State.readyRule; split <;> simp
@[simp] theorem State.readyRule_clg (i : StationId) (e : Epoch) (k : Rank) : (s.readyRule i e k).clg = s.clg := by unfold State.readyRule; split <;> simp
@[simp] theorem State.readyRule_lpt (i : StationId) (e : Epoch) (k : Rank) : (s.readyRule i e k).lpt = s.lpt := by unfold State.readyRule; split <;> simp
@[simp] theorem State.readyRule_pending (i : StationId) (e : Epoch) (k : Rank) : (s.readyRule i e k).pending = s.pending := by unfold State.readyRule; split <;> simp

/-! ### queryRule -/

@[simp] theorem State.queryRule_stc (i t : StationId) (it : Item) (tag : Tag) : (s.queryRule i t it tag).stc = s.stc := by unfold State.queryRule; dsimp only; split <;> split <;> simp
@[simp] theorem State.queryRule_lif (i t : StationId) (it : Item) (tag : Tag) : (s.queryRule i t it tag).lif = s.lif := by unfold State.queryRule; dsimp only; split <;> split <;> simp
@[simp] theorem State.queryRule_dvu (i t : StationId) (it : Item) (tag : Tag) : (s.queryRule i t it tag).dvu = s.dvu := by unfold State.queryRule; dsimp only; split <;> split <;> simp
@[simp] theorem State.queryRule_bsu (i t : StationId) (it : Item) (tag : Tag) : (s.queryRule i t it tag).bsu = s.bsu := by unfold State.queryRule; dsimp only; split <;> split <;> simp
@[simp] theorem State.queryRule_clg (i t : StationId) (it : Item) (tag : Tag) : (s.queryRule i t it tag).clg = s.clg := by unfold State.queryRule; dsimp only; split <;> split <;> simp
@[simp] theorem State.queryRule_lpt (i t : StationId) (it : Item) (tag : Tag) : (s.queryRule i t it tag).lpt = s.lpt := by unfold State.queryRule; dsimp only; split <;> split <;> simp
@[simp] theorem State.queryRule_pending (i t : StationId) (it : Item) (tag : Tag) : (s.queryRule i t it tag).pending = s.pending := by unfold State.queryRule; dsimp only; split <;> split <;> simp

/-! ### replyRule -/

@[simp] theorem State.replyRule_stc (i : StationId) (r : ReplyFields) : (s.replyRule i r).stc = s.stc := by unfold State.replyRule; split <;> simp
@[simp] theorem State.replyRule_lif (i : StationId) (r : ReplyFields) : (s.replyRule i r).lif = s.lif := by unfold State.replyRule; split <;> simp
@[simp] theorem State.replyRule_dvu (i : StationId) (r : ReplyFields) : (s.replyRule i r).dvu = s.dvu := by unfold State.replyRule; split <;> simp
@[simp] theorem State.replyRule_bsu (i : StationId) (r : ReplyFields) : (s.replyRule i r).bsu = s.bsu := by unfold State.replyRule; split <;> simp
@[simp] theorem State.replyRule_clg (i : StationId) (r : ReplyFields) : (s.replyRule i r).clg = s.clg := by unfold State.replyRule; split <;> simp
@[simp] theorem State.replyRule_lpt (i : StationId) (r : ReplyFields) : (s.replyRule i r).lpt = s.lpt := by unfold State.replyRule; split <;> simp
@[simp] theorem State.replyRule_pending (i : StationId) (r : ReplyFields) : (s.replyRule i r).pending = s.pending := by unfold State.replyRule; split <;> simp

/-! ### ageRecords -/

@[simp] theorem State.ageRecords_stc : s.ageRecords.stc = s.stc := by simp [State.ageRecords]
@[simp] theorem State.ageRecords_lif : s.ageRecords.lif = s.lif := by simp [State.ageRecords]
@[simp] theorem State.ageRecords_txq : s.ageRecords.txq = s.txq := by simp [State.ageRecords]
@[simp] theorem State.ageRecords_bsu : s.ageRecords.bsu = s.bsu := by simp [State.ageRecords]
@[simp] theorem State.ageRecords_qru : s.ageRecords.qru = s.qru := by simp [State.ageRecords]
@[simp] theorem State.ageRecords_clg : s.ageRecords.clg = s.clg := by simp [State.ageRecords]
@[simp] theorem State.ageRecords_lpt : s.ageRecords.lpt = s.lpt := by simp [State.ageRecords]
@[simp] theorem State.ageRecords_pending : s.ageRecords.pending = s.pending := by simp [State.ageRecords]
@[simp] theorem State.ageRecords_dvu_epoch : s.ageRecords.dvu.epoch = s.dvu.epoch := by simp [State.ageRecords]
@[simp] theorem State.ageRecords_dvu_base : s.ageRecords.dvu.base = s.dvu.base := by simp [State.ageRecords]
@[simp] theorem State.ageRecords_dvu_front : s.ageRecords.dvu.front = s.dvu.front := by simp [State.ageRecords]
@[simp] theorem State.ageRecords_dvu_gather : s.ageRecords.dvu.gather = s.dvu.gather := by simp [State.ageRecords]
@[simp] theorem State.ageRecords_dvu_gatherExpired : s.ageRecords.dvu.gatherExpired = s.dvu.gatherExpired := by simp [State.ageRecords]
@[simp] theorem State.ageRecords_dvu_holdSet : s.ageRecords.dvu.holdSet = s.dvu.holdSet := by simp [State.ageRecords]
@[simp] theorem State.ageRecords_dvu_announce : s.ageRecords.dvu.announce = s.dvu.announce := by simp [State.ageRecords]
@[simp] theorem State.ageRecords_dvu_gatherTimer : s.ageRecords.dvu.gatherTimer = s.dvu.gatherTimer := by simp [State.ageRecords]
@[simp] theorem State.ageRecords_dvu_settle : s.ageRecords.dvu.settle = s.dvu.settle := by simp [State.ageRecords]
@[simp] theorem State.ageRecords_dvu_holdLimit : s.ageRecords.dvu.holdLimit = s.dvu.holdLimit := by simp [State.ageRecords]

/-! ### reRequestResume -/

@[simp] theorem State.reRequestResume_stc : s.reRequestResume.stc = s.stc := by unfold State.reRequestResume; split <;> simp
@[simp] theorem State.reRequestResume_lif : s.reRequestResume.lif = s.lif := by unfold State.reRequestResume; split <;> simp
@[simp] theorem State.reRequestResume_dvu : s.reRequestResume.dvu = s.dvu := by unfold State.reRequestResume; split <;> simp
@[simp] theorem State.reRequestResume_bsu : s.reRequestResume.bsu = s.bsu := by unfold State.reRequestResume; split <;> simp
@[simp] theorem State.reRequestResume_clg : s.reRequestResume.clg = s.clg := by unfold State.reRequestResume; split <;> simp
@[simp] theorem State.reRequestResume_lpt : s.reRequestResume.lpt = s.lpt := by unfold State.reRequestResume; split <;> simp
@[simp] theorem State.reRequestResume_pending : s.reRequestResume.pending = s.pending := by unfold State.reRequestResume; split <;> simp

/-! ### raiseLate -/

@[simp] theorem State.raiseLate_stc (b : Rank) : (s.raiseLate b).stc = s.stc := by simp [State.raiseLate]
@[simp] theorem State.raiseLate_lif (b : Rank) : (s.raiseLate b).lif = s.lif := by simp [State.raiseLate]
@[simp] theorem State.raiseLate_bsu (b : Rank) : (s.raiseLate b).bsu = s.bsu := by simp [State.raiseLate]
@[simp] theorem State.raiseLate_pending (b : Rank) : (s.raiseLate b).pending = s.pending := by simp [State.raiseLate]
@[simp] theorem State.raiseLate_dvu_epoch (b : Rank) : (s.raiseLate b).dvu.epoch = s.dvu.epoch := by simp [State.raiseLate]
@[simp] theorem State.raiseLate_dvu_base (b : Rank) : (s.raiseLate b).dvu.base = s.dvu.base := by simp [State.raiseLate]
@[simp] theorem State.raiseLate_dvu_front (b : Rank) : (s.raiseLate b).dvu.front = s.dvu.front := by simp [State.raiseLate]
@[simp] theorem State.raiseLate_dvu_gather (b : Rank) : (s.raiseLate b).dvu.gather = s.dvu.gather := by simp [State.raiseLate]
@[simp] theorem State.raiseLate_dvu_gatherExpired (b : Rank) : (s.raiseLate b).dvu.gatherExpired = s.dvu.gatherExpired := by simp [State.raiseLate]
@[simp] theorem State.raiseLate_dvu_holdSet (b : Rank) : (s.raiseLate b).dvu.holdSet = s.dvu.holdSet := by simp [State.raiseLate]
@[simp] theorem State.raiseLate_dvu_announce (b : Rank) : (s.raiseLate b).dvu.announce = s.dvu.announce := by simp [State.raiseLate]
@[simp] theorem State.raiseLate_dvu_gatherTimer (b : Rank) : (s.raiseLate b).dvu.gatherTimer = s.dvu.gatherTimer := by simp [State.raiseLate]
@[simp] theorem State.raiseLate_dvu_settle (b : Rank) : (s.raiseLate b).dvu.settle = s.dvu.settle := by simp [State.raiseLate]
@[simp] theorem State.raiseLate_dvu_holdLimit (b : Rank) : (s.raiseLate b).dvu.holdLimit = s.dvu.holdLimit := by simp [State.raiseLate]

/-! ### settleAction -/

@[simp] theorem State.settleAction_stc : s.settleAction.stc = s.stc := by unfold State.settleAction; split <;> (try split) <;> simp
@[simp] theorem State.settleAction_lif : s.settleAction.lif = s.lif := by unfold State.settleAction; split <;> (try split) <;> simp
@[simp] theorem State.settleAction_bsu : s.settleAction.bsu = s.bsu := by unfold State.settleAction; split <;> (try split) <;> simp
@[simp] theorem State.settleAction_pending : s.settleAction.pending = s.pending := by unfold State.settleAction; split <;> (try split) <;> simp
@[simp] theorem State.settleAction_dvu_epoch : s.settleAction.dvu.epoch = s.dvu.epoch := by unfold State.settleAction; split <;> (try split) <;> simp
@[simp] theorem State.settleAction_dvu_base : s.settleAction.dvu.base = s.dvu.base := by unfold State.settleAction; split <;> (try split) <;> simp
@[simp] theorem State.settleAction_dvu_front : s.settleAction.dvu.front = s.dvu.front := by unfold State.settleAction; split <;> (try split) <;> simp
@[simp] theorem State.settleAction_dvu_gather : s.settleAction.dvu.gather = s.dvu.gather := by unfold State.settleAction; split <;> (try split) <;> simp
@[simp] theorem State.settleAction_dvu_gatherExpired : s.settleAction.dvu.gatherExpired = s.dvu.gatherExpired := by unfold State.settleAction; split <;> (try split) <;> simp
@[simp] theorem State.settleAction_dvu_holdSet : s.settleAction.dvu.holdSet = s.dvu.holdSet := by unfold State.settleAction; split <;> (try split) <;> simp
@[simp] theorem State.settleAction_dvu_announce : s.settleAction.dvu.announce = s.dvu.announce := by unfold State.settleAction; split <;> (try split) <;> simp
@[simp] theorem State.settleAction_dvu_gatherTimer : s.settleAction.dvu.gatherTimer = s.dvu.gatherTimer := by unfold State.settleAction; split <;> (try split) <;> simp
@[simp] theorem State.settleAction_dvu_settle : s.settleAction.dvu.settle = s.dvu.settle := by unfold State.settleAction; split <;> (try split) <;> simp
@[simp] theorem State.settleAction_dvu_holdLimit : s.settleAction.dvu.holdLimit = s.dvu.holdLimit := by unfold State.settleAction; split <;> (try split) <;> simp

/-! ### passLong -/

@[simp] theorem State.passLong_dvu : s.passLong.dvu = s.dvu := by unfold State.passLong; dsimp only; split <;> simp
@[simp] theorem State.passLong_bsu : s.passLong.bsu = s.bsu := by unfold State.passLong; dsimp only; split <;> simp
@[simp] theorem State.passLong_qru : s.passLong.qru = s.qru := by unfold State.passLong; dsimp only; split <;> simp
@[simp] theorem State.passLong_clg : s.passLong.clg = s.clg := by unfold State.passLong; dsimp only; split <;> simp
@[simp] theorem State.passLong_lpt : s.passLong.lpt = s.lpt := by unfold State.passLong; dsimp only; split <;> simp
/-- R147, R152, R153: a run past 9 T ends an attempt; a break goes on. -/
theorem State.passLong_drive : s.passLong.lif.drive = if s.lif.drive.isFrame = true then .none else s.lif.drive := by
  unfold State.passLong; dsimp only; split
  · simp [Drive.stopFrame_eq]
  · next h => cases hd : s.lif.drive <;> simp_all [Lif.attempting, Drive.isFrame]

theorem State.passLong_mismatch : s.passLong.lif.mismatch = false := by
  unfold State.passLong; dsimp only; split
  · simp
  · next h => cases hm : s.lif.mismatch <;> simp_all [Lif.attempting]

@[simp] theorem State.passLong_pending : s.passLong.pending = s.pending := by unfold State.passLong; dsimp only; split <;> simp

/-! ### stopFaulty -/

@[simp] theorem State.stopFaulty_stc : s.stopFaulty.stc = s.stc := by unfold State.stopFaulty; dsimp only; split <;> simp
@[simp] theorem State.stopFaulty_dvu : s.stopFaulty.dvu = s.dvu := by unfold State.stopFaulty; dsimp only; split <;> simp
@[simp] theorem State.stopFaulty_bsu : s.stopFaulty.bsu = s.bsu := by unfold State.stopFaulty; dsimp only; split <;> simp
@[simp] theorem State.stopFaulty_qru : s.stopFaulty.qru = s.qru := by unfold State.stopFaulty; dsimp only; split <;> simp
@[simp] theorem State.stopFaulty_clg : s.stopFaulty.clg = s.clg := by unfold State.stopFaulty; dsimp only; split <;> simp
@[simp] theorem State.stopFaulty_lpt : s.stopFaulty.lpt = s.lpt := by unfold State.stopFaulty; dsimp only; split <;> simp
/-- R149: a drive fault ends what is driven. -/
@[simp] theorem State.stopFaulty_drive : s.stopFaulty.lif.drive = .none := by
  unfold State.stopFaulty; dsimp only; cases h : s.lif.drive <;> simp [h, Drive.isFrame]

@[simp] theorem State.stopFaulty_pending : s.stopFaulty.pending = s.pending := by unfold State.stopFaulty; dsimp only; split <;> simp

/-! ### recordEmergency -/

@[simp] theorem State.recordEmergency_stc : s.recordEmergency.stc = s.stc := by simp [State.recordEmergency]
@[simp] theorem State.recordEmergency_lif : s.recordEmergency.lif = s.lif := by simp [State.recordEmergency]
@[simp] theorem State.recordEmergency_txq : s.recordEmergency.txq = s.txq := by simp [State.recordEmergency]
@[simp] theorem State.recordEmergency_bsu : s.recordEmergency.bsu = s.bsu := by simp [State.recordEmergency]
@[simp] theorem State.recordEmergency_qru : s.recordEmergency.qru = s.qru := by simp [State.recordEmergency]
@[simp] theorem State.recordEmergency_pending : s.recordEmergency.pending = s.pending := by simp [State.recordEmergency]
@[simp] theorem State.recordEmergency_dvu_epoch : s.recordEmergency.dvu.epoch = s.dvu.epoch := by simp [State.recordEmergency]
@[simp] theorem State.recordEmergency_dvu_base : s.recordEmergency.dvu.base = s.dvu.base := by simp [State.recordEmergency]
@[simp] theorem State.recordEmergency_dvu_front : s.recordEmergency.dvu.front = s.dvu.front := by simp [State.recordEmergency]
@[simp] theorem State.recordEmergency_dvu_gather : s.recordEmergency.dvu.gather = s.dvu.gather := by simp [State.recordEmergency]
@[simp] theorem State.recordEmergency_dvu_gatherExpired : s.recordEmergency.dvu.gatherExpired = s.dvu.gatherExpired := by simp [State.recordEmergency]
@[simp] theorem State.recordEmergency_dvu_holdSet : s.recordEmergency.dvu.holdSet = s.dvu.holdSet := by simp [State.recordEmergency]
@[simp] theorem State.recordEmergency_dvu_announce : s.recordEmergency.dvu.announce = s.dvu.announce := by simp [State.recordEmergency]
@[simp] theorem State.recordEmergency_dvu_gatherTimer : s.recordEmergency.dvu.gatherTimer = s.dvu.gatherTimer := by simp [State.recordEmergency]
@[simp] theorem State.recordEmergency_dvu_settle : s.recordEmergency.dvu.settle = s.dvu.settle := by simp [State.recordEmergency]
@[simp] theorem State.recordEmergency_dvu_holdLimit : s.recordEmergency.dvu.holdLimit = s.dvu.holdLimit := by simp [State.recordEmergency]

/-! ### startBreak -/

@[simp] theorem State.startBreak_stc : s.startBreak.stc = s.stc := by unfold State.startBreak; dsimp only; split <;> simp
@[simp] theorem State.startBreak_dvu : s.startBreak.dvu = s.dvu := by unfold State.startBreak; dsimp only; split <;> simp
@[simp] theorem State.startBreak_bsu : s.startBreak.bsu = s.bsu := by unfold State.startBreak; dsimp only; split <;> simp
@[simp] theorem State.startBreak_qru : s.startBreak.qru = s.qru := by unfold State.startBreak; dsimp only; split <;> simp
@[simp] theorem State.startBreak_clg : s.startBreak.clg = s.clg := by unfold State.startBreak; dsimp only; split <;> simp
@[simp] theorem State.startBreak_lpt : s.startBreak.lpt = s.lpt := by unfold State.startBreak; dsimp only; split <;> simp
@[simp] theorem State.startBreak_pending : s.startBreak.pending = s.pending := by unfold State.startBreak; dsimp only; split <;> simp

/-! ### holdRequest -/

@[simp] theorem State.holdRequest_stc (a : HoldAction) : (s.holdRequest a).stc = s.stc := by unfold State.holdRequest; split <;> simp
@[simp] theorem State.holdRequest_lif (a : HoldAction) : (s.holdRequest a).lif = s.lif := by unfold State.holdRequest; split <;> simp
@[simp] theorem State.holdRequest_dvu (a : HoldAction) : (s.holdRequest a).dvu = s.dvu := by unfold State.holdRequest; split <;> simp
@[simp] theorem State.holdRequest_bsu (a : HoldAction) : (s.holdRequest a).bsu = s.bsu := by unfold State.holdRequest; split <;> simp
@[simp] theorem State.holdRequest_clg (a : HoldAction) : (s.holdRequest a).clg = s.clg := by unfold State.holdRequest; split <;> simp
@[simp] theorem State.holdRequest_lpt (a : HoldAction) : (s.holdRequest a).lpt = s.lpt := by unfold State.holdRequest; split <;> simp
@[simp] theorem State.holdRequest_pending (a : HoldAction) : (s.holdRequest a).pending = s.pending := by unfold State.holdRequest; split <;> simp

/-! ### resetRequest -/

@[simp] theorem State.resetRequest_stc (b : Byte) : (s.resetRequest b).stc = s.stc := by unfold State.resetRequest; split <;> (try split) <;> simp
@[simp] theorem State.resetRequest_lif (b : Byte) : (s.resetRequest b).lif = s.lif := by unfold State.resetRequest; split <;> (try split) <;> simp
@[simp] theorem State.resetRequest_pending (b : Byte) : (s.resetRequest b).pending = s.pending := by unfold State.resetRequest; split <;> (try split) <;> simp
@[simp] theorem State.resetRequest_dvu_epoch (b : Byte) : (s.resetRequest b).dvu.epoch = s.dvu.epoch := by unfold State.resetRequest; split <;> (try split) <;> simp
@[simp] theorem State.resetRequest_dvu_base (b : Byte) : (s.resetRequest b).dvu.base = s.dvu.base := by unfold State.resetRequest; split <;> (try split) <;> simp
@[simp] theorem State.resetRequest_dvu_front (b : Byte) : (s.resetRequest b).dvu.front = s.dvu.front := by unfold State.resetRequest; split <;> (try split) <;> simp
@[simp] theorem State.resetRequest_dvu_gather (b : Byte) : (s.resetRequest b).dvu.gather = s.dvu.gather := by unfold State.resetRequest; split <;> (try split) <;> simp
@[simp] theorem State.resetRequest_dvu_gatherExpired (b : Byte) : (s.resetRequest b).dvu.gatherExpired = s.dvu.gatherExpired := by unfold State.resetRequest; split <;> (try split) <;> simp
@[simp] theorem State.resetRequest_dvu_holdSet (b : Byte) : (s.resetRequest b).dvu.holdSet = s.dvu.holdSet := by unfold State.resetRequest; split <;> (try split) <;> simp
@[simp] theorem State.resetRequest_dvu_announce (b : Byte) : (s.resetRequest b).dvu.announce = s.dvu.announce := by unfold State.resetRequest; split <;> (try split) <;> simp
@[simp] theorem State.resetRequest_dvu_gatherTimer (b : Byte) : (s.resetRequest b).dvu.gatherTimer = s.dvu.gatherTimer := by unfold State.resetRequest; split <;> (try split) <;> simp
@[simp] theorem State.resetRequest_dvu_settle (b : Byte) : (s.resetRequest b).dvu.settle = s.dvu.settle := by unfold State.resetRequest; split <;> (try split) <;> simp
@[simp] theorem State.resetRequest_dvu_holdLimit (b : Byte) : (s.resetRequest b).dvu.holdLimit = s.dvu.holdLimit := by unfold State.resetRequest; split <;> (try split) <;> simp

/-! ### ask -/

@[simp] theorem State.ask_stc (i : SlotIx) (t : StationId) (it : Item) : (s.ask i t it).stc = s.stc := by unfold State.ask; dsimp only; split <;> simp
@[simp] theorem State.ask_lif (i : SlotIx) (t : StationId) (it : Item) : (s.ask i t it).lif = s.lif := by unfold State.ask; dsimp only; split <;> simp
@[simp] theorem State.ask_dvu (i : SlotIx) (t : StationId) (it : Item) : (s.ask i t it).dvu = s.dvu := by unfold State.ask; dsimp only; split <;> simp
@[simp] theorem State.ask_bsu (i : SlotIx) (t : StationId) (it : Item) : (s.ask i t it).bsu = s.bsu := by unfold State.ask; dsimp only; split <;> simp
@[simp] theorem State.ask_clg (i : SlotIx) (t : StationId) (it : Item) : (s.ask i t it).clg = s.clg := by unfold State.ask; dsimp only; split <;> simp
@[simp] theorem State.ask_lpt (i : SlotIx) (t : StationId) (it : Item) : (s.ask i t it).lpt = s.lpt := by unfold State.ask; dsimp only; split <;> simp
@[simp] theorem State.ask_pending (i : SlotIx) (t : StationId) (it : Item) : (s.ask i t it).pending = s.pending := by unfold State.ask; dsimp only; split <;> simp

/-! ### queryEffect -/

@[simp] theorem State.queryEffect_stc (b c : Byte) : (s.queryEffect b c).stc = s.stc := by unfold State.queryEffect; split <;> simp
@[simp] theorem State.queryEffect_lif (b c : Byte) : (s.queryEffect b c).lif = s.lif := by unfold State.queryEffect; split <;> simp
@[simp] theorem State.queryEffect_dvu (b c : Byte) : (s.queryEffect b c).dvu = s.dvu := by unfold State.queryEffect; split <;> simp
@[simp] theorem State.queryEffect_bsu (b c : Byte) : (s.queryEffect b c).bsu = s.bsu := by unfold State.queryEffect; split <;> simp
@[simp] theorem State.queryEffect_clg (b c : Byte) : (s.queryEffect b c).clg = s.clg := by unfold State.queryEffect; split <;> simp
@[simp] theorem State.queryEffect_lpt (b c : Byte) : (s.queryEffect b c).lpt = s.lpt := by unfold State.queryEffect; split <;> simp
@[simp] theorem State.queryEffect_pending (b c : Byte) : (s.queryEffect b c).pending = s.pending := by unfold State.queryEffect; split <;> simp

/-! ### clearExclusion -/

@[simp] theorem State.clearExclusion_stc : s.clearExclusion.stc = s.stc := by unfold State.clearExclusion; split <;> simp
@[simp] theorem State.clearExclusion_lif : s.clearExclusion.lif = s.lif := by unfold State.clearExclusion; split <;> simp
@[simp] theorem State.clearExclusion_clg : s.clearExclusion.clg = s.clg := by unfold State.clearExclusion; split <;> simp
@[simp] theorem State.clearExclusion_lpt : s.clearExclusion.lpt = s.lpt := by unfold State.clearExclusion; split <;> simp
@[simp] theorem State.clearExclusion_pending : s.clearExclusion.pending = s.pending := by unfold State.clearExclusion; split <;> simp
@[simp] theorem State.clearExclusion_dvu_epoch : s.clearExclusion.dvu.epoch = s.dvu.epoch := by unfold State.clearExclusion; split <;> simp
@[simp] theorem State.clearExclusion_dvu_base : s.clearExclusion.dvu.base = s.dvu.base := by unfold State.clearExclusion; split <;> simp
@[simp] theorem State.clearExclusion_dvu_front : s.clearExclusion.dvu.front = s.dvu.front := by unfold State.clearExclusion; split <;> simp
@[simp] theorem State.clearExclusion_dvu_gather : s.clearExclusion.dvu.gather = s.dvu.gather := by unfold State.clearExclusion; split <;> simp
@[simp] theorem State.clearExclusion_dvu_gatherExpired : s.clearExclusion.dvu.gatherExpired = s.dvu.gatherExpired := by unfold State.clearExclusion; split <;> simp
@[simp] theorem State.clearExclusion_dvu_holdSet : s.clearExclusion.dvu.holdSet = s.dvu.holdSet := by unfold State.clearExclusion; split <;> simp
@[simp] theorem State.clearExclusion_dvu_announce : s.clearExclusion.dvu.announce = s.dvu.announce := by unfold State.clearExclusion; split <;> simp
@[simp] theorem State.clearExclusion_dvu_gatherTimer : s.clearExclusion.dvu.gatherTimer = s.dvu.gatherTimer := by unfold State.clearExclusion; split <;> simp
@[simp] theorem State.clearExclusion_dvu_settle : s.clearExclusion.dvu.settle = s.dvu.settle := by unfold State.clearExclusion; split <;> simp
@[simp] theorem State.clearExclusion_dvu_holdLimit : s.clearExclusion.dvu.holdLimit = s.dvu.holdLimit := by unfold State.clearExclusion; split <;> simp

/-! ### deliver -/

@[simp] theorem State.deliver_stc (m : Option Mark) : (s.deliver m).stc = s.stc := by unfold State.deliver; split <;> (try split) <;> (try split) <;> simp
@[simp] theorem State.deliver_lif (m : Option Mark) : (s.deliver m).lif = s.lif := by unfold State.deliver; split <;> (try split) <;> (try split) <;> simp
@[simp] theorem State.deliver_txq (m : Option Mark) : (s.deliver m).txq = s.txq := by unfold State.deliver; split <;> (try split) <;> (try split) <;> simp
@[simp] theorem State.deliver_bsu (m : Option Mark) : (s.deliver m).bsu = s.bsu := by unfold State.deliver; split <;> (try split) <;> (try split) <;> simp
@[simp] theorem State.deliver_lpt (m : Option Mark) : (s.deliver m).lpt = s.lpt := by unfold State.deliver; split <;> (try split) <;> (try split) <;> simp
@[simp] theorem State.deliver_pending (m : Option Mark) : (s.deliver m).pending = s.pending := by unfold State.deliver; split <;> (try split) <;> (try split) <;> simp
@[simp] theorem State.deliver_dvu_epoch (m : Option Mark) : (s.deliver m).dvu.epoch = s.dvu.epoch := by unfold State.deliver; split <;> (try split) <;> (try split) <;> simp
@[simp] theorem State.deliver_dvu_base (m : Option Mark) : (s.deliver m).dvu.base = s.dvu.base := by unfold State.deliver; split <;> (try split) <;> (try split) <;> simp
@[simp] theorem State.deliver_dvu_front (m : Option Mark) : (s.deliver m).dvu.front = s.dvu.front := by unfold State.deliver; split <;> (try split) <;> (try split) <;> simp
@[simp] theorem State.deliver_dvu_gather (m : Option Mark) : (s.deliver m).dvu.gather = s.dvu.gather := by unfold State.deliver; split <;> (try split) <;> (try split) <;> simp
@[simp] theorem State.deliver_dvu_gatherExpired (m : Option Mark) : (s.deliver m).dvu.gatherExpired = s.dvu.gatherExpired := by unfold State.deliver; split <;> (try split) <;> (try split) <;> simp
@[simp] theorem State.deliver_dvu_holdSet (m : Option Mark) : (s.deliver m).dvu.holdSet = s.dvu.holdSet := by unfold State.deliver; split <;> (try split) <;> (try split) <;> simp
@[simp] theorem State.deliver_dvu_announce (m : Option Mark) : (s.deliver m).dvu.announce = s.dvu.announce := by unfold State.deliver; split <;> (try split) <;> (try split) <;> simp
@[simp] theorem State.deliver_dvu_gatherTimer (m : Option Mark) : (s.deliver m).dvu.gatherTimer = s.dvu.gatherTimer := by unfold State.deliver; split <;> (try split) <;> (try split) <;> simp
@[simp] theorem State.deliver_dvu_settle (m : Option Mark) : (s.deliver m).dvu.settle = s.dvu.settle := by unfold State.deliver; split <;> (try split) <;> (try split) <;> simp
@[simp] theorem State.deliver_dvu_holdLimit (m : Option Mark) : (s.deliver m).dvu.holdLimit = s.dvu.holdLimit := by unfold State.deliver; split <;> (try split) <;> (try split) <;> simp

/-! ### requestLapses -/

/-- A part of the state that no request touches is left by the lapses of an announce expiry. -/
theorem State.requestLapses_part {α : Type} (p : State → α) (h : ∀ (t : State) (e : Entry), p (t.request e) = p t) :
    p s.requestLapses = p s := by
  have key : ∀ (l : List StationId) (t : State), p (l.foldl (fun t i =>
      if s.isSilent i && !t.txq.holds (.memberSilent i) then t.request (.memberSilent i) else t) t) = p t := by
    intro l
    induction l with
    | nil => exact fun _ => rfl
    | cons i l ih =>
      intro t
      rw [List.foldl_cons, ih]
      split
      · exact h _ _
      · rfl
  exact key stationIds s

@[simp] theorem State.requestLapses_stc : s.requestLapses.stc = s.stc :=
  s.requestLapses_part State.stc (fun _ _ => by simp)
@[simp] theorem State.requestLapses_lif : s.requestLapses.lif = s.lif :=
  s.requestLapses_part State.lif (fun _ _ => by simp)
@[simp] theorem State.requestLapses_dvu : s.requestLapses.dvu = s.dvu :=
  s.requestLapses_part State.dvu (fun _ _ => by simp)
@[simp] theorem State.requestLapses_bsu : s.requestLapses.bsu = s.bsu :=
  s.requestLapses_part State.bsu (fun _ _ => by simp)
@[simp] theorem State.requestLapses_clg : s.requestLapses.clg = s.clg :=
  s.requestLapses_part State.clg (fun _ _ => by simp)
@[simp] theorem State.requestLapses_lpt : s.requestLapses.lpt = s.lpt :=
  s.requestLapses_part State.lpt (fun _ _ => by simp)
@[simp] theorem State.requestLapses_pending : s.requestLapses.pending = s.pending :=
  s.requestLapses_part State.pending (fun _ _ => by simp)

end Sys2Proof.Machine
end

