-- ==== Sys2Proof/Laws/Tables.lean ====
section
/-!
SUPPORT. The tables of 32 and of 4: what an element is after a change, and when the hold set is empty.
-/

namespace Sys2Proof.Machine

theorem mapFrom_getElem {α : Type} (f : Nat → α → α) (l : List α) (k i : Nat) (h : i < (mapFrom f k l).length) :
    (mapFrom f k l)[i] = f (k + i) (l[i]'(by simpa [mapFrom_length] using h)) := by
  induction l generalizing k i with
  | nil => simp [mapFrom] at h
  | cons x xs ih =>
    cases i with
    | zero => simp [mapFrom]
    | succ i =>
      simp only [mapFrom, List.getElem_cons_succ]
      rw [ih]
      congr 1
      omega

/-- An element of a table changed by a function of its index. -/
@[simp] theorem mapTable_getElem {α : Type} {n : Nat} (f : Fin n → α → α) (t : Vector α n) (i : Nat) (h : i < n) :
    (mapTable f t)[i] = f ⟨i, h⟩ t[i] := by
  simp [mapTable, Vector.getElem_mk, mapFrom_getElem, h]

theorem anyTable_iff {α : Type} {n : Nat} (p : α → Bool) (t : Vector α n) :
    anyTable p t = true ↔ ∃ i : Fin n, p t[i] = true := by
  simp only [anyTable, List.any_eq_true]
  constructor
  · rintro ⟨x, hx, hp⟩
    obtain ⟨i, hi, rfl⟩ := List.getElem_of_mem hx
    exact ⟨⟨i, by simpa using hi⟩, by simpa using hp⟩
  · rintro ⟨i, hp⟩
    exact ⟨t[i], by simp [Vector.getElem_mem], hp⟩

/-- The hold set is empty when no flag is set. -/
theorem holdEmpty_iff (h : Vector Bool 32) : holdEmpty h = true ↔ ∀ i : StationId, h[i] = false := by
  rw [holdEmpty, Bool.not_eq_true', ← Bool.not_eq_true, anyTable_iff]
  simp

theorem holdClear_iff (s : State) : s.holdClear = true ↔ ∀ i : StationId, s.dvu.holdSet[i] = false :=
  holdEmpty_iff s.dvu.holdSet

/-! ### Records -/

/-- A record after one record has been changed. -/
theorem record_updateRecord (s : State) (i j : StationId) (f : Record → Record) :
    (s.updateRecord i f).record j = if j = i then f (s.record i) else s.record j := by
  simp only [State.record, State.updateRecord_dvu_records, Fin.getElem_fin]
  rw [Vector.getElem_set]
  simp only [Fin.val_inj, eq_comm (a := i)]

theorem record_setDvu (s : State) (d : Dvu) (j : StationId) : (s.setDvu d).record j = d.records[j] := rfl

theorem record_setRecords (s : State) (t : Vector Record 32) (j : StationId) : (s.setRecords t).record j = t[j] := rfl

/-- A record after the own record has been brought in line. -/
theorem record_mirrorOwn (s : State) (j : StationId) :
    s.mirrorOwn.record j =
      if s.stc.station = .member ∧ j = s.self then (s.record j).mirror s.rank s.bsu.board s.bsu.budget s.logPending
      else s.record j := by
  unfold State.mirrorOwn State.isMember
  by_cases h : s.stc.station = .member
  · simp only [h, beq_self_eq_true, if_true, record_updateRecord, true_and]
    split
    · next e => rw [e]
    · rfl
  · simp [h]

/-! ### The hold set -/

theorem holdSet_setHold (s : State) (h : Vector Bool 32) (j : StationId) : (s.setHold h).dvu.holdSet[j] = h[j] := rfl

/-- A flag of the hold set after an ID has been added. -/
theorem holdSet_addHold (s : State) (i j : StationId) :
    (s.addHold i).dvu.holdSet[j] = if j = i then true else s.dvu.holdSet[j] := by
  have : (s.addHold i).dvu.holdSet = s.dvu.holdSet.set i true := by
    simp [State.addHold]
  rw [this]
  simp only [Fin.getElem_fin]
  rw [Vector.getElem_set]
  simp only [Fin.val_inj, eq_comm (a := i)]

/-- A flag of the hold set after an ID has been removed. -/
theorem holdSet_removeHold (s : State) (i j : StationId) :
    (s.removeHold i).dvu.holdSet[j] = if j = i then false else s.dvu.holdSet[j] := by
  simp only [State.removeHold_dvu_holdSet, Fin.getElem_fin]
  rw [Vector.getElem_set]
  simp only [Fin.val_inj, eq_comm (a := i)]

/-! ### Slots -/

/-- A slot after one slot has been changed. -/
theorem slots_updateSlot (s : State) (i j : SlotIx) (f : Slot → Slot) :
    (s.updateSlot i f).qru.slots[j] = if j = i then f s.qru.slots[i] else s.qru.slots[j] := by
  simp only [State.updateSlot_slots, Fin.getElem_fin]
  rw [Vector.getElem_set]
  simp only [Fin.val_inj, eq_comm (a := i)]

end Sys2Proof.Machine
end

