-- ==== Sys2Proof/Laws/Queue.lean ====
section
/-!
SUPPORT. The operations of the Transmit Queue: each keeps a sound queue, and what each does to the mark in flight.
-/

namespace Sys2Proof.Machine

/-! ### Keys -/

/-- A merge changes no key. -/
theorem Entry.mergeRequest_key (h e : Entry) (he : h.key = e.key) : (h.mergeRequest e).key = e.key := by
  cases h <;> cases e <;> simp_all [Entry.mergeRequest, Entry.key]

/-- R160: a kept FAULT or hold request changes no key of the entry it meets. -/
theorem Entry.mergeRequest_key_self (h e : Entry) (he : h.key = e.key) : (h.mergeRequest e).key = h.key :=
  (h.mergeRequest_key e he).trans he.symm

theorem removeKey_keys (l : List Entry) (k : Key) :
    (removeKey l k).map Entry.key = (l.map Entry.key).filter (fun x => x ≠ k) := by
  simp only [removeKey, List.filter_map, Function.comp_def]

theorem mem_removeKey {l : List Entry} {k : Key} {e : Entry} : e ∈ removeKey l k ↔ e ∈ l ∧ e.key ≠ k := by
  simp [removeKey]

theorem removeKey_length_lt {l : List Entry} {e : Entry} (h : e ∈ l) : (removeKey l e.key).length < l.length := by
  unfold removeKey
  exact List.length_filter_lt_length_iff_exists.mpr ⟨e, h, by simp⟩

theorem Txq.holds_iff (q : Txq) (k : Key) : q.holds k = true ↔ k ∈ q.entries.map Entry.key := by
  simp [Txq.holds]

theorem Txq.holds_eq_false_iff (q : Txq) (k : Key) : q.holds k = false ↔ k ∉ q.entries.map Entry.key := by
  rw [← Txq.holds_iff]; simp

/-- An entry that may be discarded is held and does not fly. -/
theorem Txq.mem_waiting (q : Txq) (e : Entry) : e ∈ q.waiting ↔ e ∈ q.entries ∧ q.inFlight ≠ some e.key := by
  simp [Txq.waiting]

theorem Txq.youngestOf_mem {q : Txq} {n : Nat} {e : Entry} (h : q.youngestOf n = some e) : e ∈ q.waiting := by
  have := List.mem_of_find?_eq_some h
  simpa using this

/-! ### Requests -/

@[simp] theorem Txq.add_inFlight (q : Txq) (e : Entry) : (q.add e).1.inFlight = q.inFlight := by
  unfold Txq.add; split
  · rfl
  · split
    · split <;> rfl
    · rfl

@[simp] theorem Txq.request_inFlight (q : Txq) (e : Entry) : (q.request e).1.inFlight = q.inFlight := by
  unfold Txq.request; split
  · split <;> rfl
  · simp

/-- A list of entries with one key taken out and a new key put in has no key twice. -/
theorem nodup_append_key {l : List Entry} {e : Entry} (h : (l.map Entry.key).Nodup) (hk : e.key ∉ l.map Entry.key) :
    ((l ++ [e]).map Entry.key).Nodup := by
  rw [List.map_append, List.nodup_append]
  exact ⟨h, by simp, by simp only [List.map_cons, List.map_nil, List.mem_singleton]; rintro a ha b rfl rfl; exact hk ha⟩

theorem Txq.Sound.add {q : Txq} (hq : q.Sound) {e : Entry} (hk : e.key ∉ q.entries.map Entry.key) :
    (q.add e).1.Sound := by
  unfold Txq.add
  split
  · next hlt =>
    exact ⟨by simpa using hlt, nodup_append_key hq.keys hk, fun k hf => by
      rw [List.map_append]; exact List.mem_append_left _ (hq.held k hf)⟩
  · split
    · split
      · next d hd =>
        have hw := (q.mem_waiting d).1 (Txq.youngestOf_mem hd)
        have hl := removeKey_length_lt hw.1
        refine ⟨?_, ?_, ?_⟩
        · have := hq.capacity
          simp only [List.length_append, List.length_singleton]
          omega
        · refine nodup_append_key ?_ ?_
          · rw [removeKey_keys]; exact hq.keys.filter _
          · rw [removeKey_keys]; exact fun h => hk (List.mem_of_mem_filter h)
        · intro k hf
          rw [List.map_append, removeKey_keys]
          refine List.mem_append_left _ (List.mem_filter.2 ⟨hq.held k hf, ?_⟩)
          simp only [ne_eq, decide_not, Bool.not_eq_eq_eq_not, Bool.not_true, decide_eq_false_iff_not]
          intro e'; exact hw.2 (by rw [← e']; exact hf)
      · exact hq
    · exact hq

/-- R157, R158, R160, R165: a request keeps a sound queue. -/
theorem Txq.Sound.request {q : Txq} (hq : q.Sound) (e : Entry) : (q.request e).1.Sound := by
  unfold Txq.request
  split
  · split
    · exact ⟨hq.capacity, hq.keys, hq.held⟩
    · have hm : (q.entries.map (fun h => if h.key = e.key then h.mergeRequest e else h)).map Entry.key =
          q.entries.map Entry.key := by
        rw [List.map_map]
        refine List.map_congr_left (fun h _ => ?_)
        simp only [Function.comp_apply]
        split
        · next he => exact Entry.mergeRequest_key_self h e he
        · rfl
      exact ⟨by simpa using hq.capacity, by simpa only [hm] using hq.keys, fun k hf => by
        simpa only [hm] using hq.held k hf⟩
  · next hn => exact hq.add (by rw [← Txq.holds_iff]; exact hn)

/-! ### Cancellation, the purge, and the end of an attempt -/

@[simp] theorem Txq.cancel_inFlight (q : Txq) (k : Key) : (q.cancel k).inFlight = q.inFlight := by
  unfold Txq.cancel; split <;> rfl

theorem Txq.Sound.cancel {q : Txq} (hq : q.Sound) (k : Key) : (q.cancel k).Sound := by
  unfold Txq.cancel
  split
  · exact ⟨hq.capacity, hq.keys, hq.held⟩
  · next hn =>
    refine ⟨(List.length_filter_le _ _).trans hq.capacity, ?_, ?_⟩
    · rw [removeKey_keys]; exact hq.keys.filter _
    · intro j hj
      rw [removeKey_keys]
      refine List.mem_filter.2 ⟨hq.held j hj, ?_⟩
      simp only [ne_eq, decide_not, Bool.not_eq_eq_eq_not, Bool.not_true, decide_eq_false_iff_not]
      rintro rfl; exact hn hj

@[simp] theorem Txq.purge_inFlight (q : Txq) (b own : Rank) : (q.purge b own).inFlight = q.inFlight := rfl

theorem Txq.Sound.purge {q : Txq} (hq : q.Sound) (b own : Rank) : (q.purge b own).Sound := by
  refine ⟨(List.length_filter_le _ _).trans hq.capacity, ?_, ?_⟩
  · exact hq.keys.sublist (List.filter_sublist.map _)
  · intro j hj
    obtain ⟨e, he, rfl⟩ := List.mem_map.1 (hq.held j hj)
    refine List.mem_map.2 ⟨e, List.mem_filter.2 ⟨he, ?_⟩, rfl⟩
    simp only [Txq.purge_inFlight] at hj
    simp [hj]

@[simp] theorem Txq.fail_inFlight (q : Txq) : q.fail.inFlight = none := by
  unfold Txq.fail
  split
  · assumption
  · rfl

theorem Txq.Sound.of_none {l : List Entry} {r : Option Remembered} (hl : l.length ≤ Config.queueCapacity)
    (hk : (l.map Entry.key).Nodup) : (⟨l, none, r⟩ : Txq).Sound := ⟨hl, hk, fun _ h => by simp at h⟩

/-- A merge of a kept FAULT or hold action keeps every key, whatever entry it meets. -/
theorem Entry.mergeRequest_kept_key (x : Entry) (e : Entry) (h : (∃ f, e = .fault f) ∨ (∃ a, e = .hold a)) :
    (x.mergeRequest e).key = x.key := by
  rcases h with ⟨f, rfl⟩ | ⟨a, rfl⟩ <;> cases x <;> simp [Entry.mergeRequest, Entry.key]

theorem Txq.Sound.fail {q : Txq} (hq : q.Sound) : q.fail.Sound := by
  unfold Txq.fail
  split
  · exact hq
  · next k hk =>
    refine Txq.Sound.of_none ?_ ?_
    · split
      · exact hq.capacity
      · exact (List.length_filter_le _ _).trans hq.capacity
      · simpa using hq.capacity
      · simpa using hq.capacity
    · split
      · exact hq.keys
      · rw [removeKey_keys]; exact hq.keys.filter _
      · next f _ =>
        have : ((q.entries.map (fun h => if h.key = k then h.mergeRequest (.fault f) else h)).map Entry.key) =
            q.entries.map Entry.key := by
          rw [List.map_map]
          refine List.map_congr_left (fun x _ => ?_)
          simp only [Function.comp_apply]
          split
          · exact Entry.mergeRequest_kept_key x _ (Or.inl ⟨f, rfl⟩)
          · rfl
        rw [this]; exact hq.keys
      · next a _ =>
        have : ((q.entries.map (fun h => if h.key = k then h.mergeRequest (.hold a) else h)).map Entry.key) =
            q.entries.map Entry.key := by
          rw [List.map_map]
          refine List.map_congr_left (fun x _ => ?_)
          simp only [Function.comp_apply]
          split
          · exact Entry.mergeRequest_kept_key x _ (Or.inr ⟨a, rfl⟩)
          · rfl
        rw [this]; exact hq.keys

@[simp] theorem Txq.arrived_inFlight (q : Txq) : q.arrived.inFlight = none := by
  unfold Txq.arrived
  split
  · assumption
  · rfl

theorem Txq.Sound.arrived {q : Txq} (hq : q.Sound) : q.arrived.Sound := by
  unfold Txq.arrived
  split
  · exact hq
  · exact Txq.Sound.of_none ((List.length_filter_le _ _).trans hq.capacity)
      (by rw [removeKey_keys]; exact hq.keys.filter _)

theorem Txq.Sound.reset : Txq.reset.Sound := Txq.Sound.of_none (by simp) (by simp)

/-! ### The offered entry (R159) -/

theorem firstInOrder_mem {l : List Entry} {e : Entry} (h : firstInOrder l = some e) : e ∈ l := by
  induction l generalizing e with
  | nil => simp [firstInOrder] at h
  | cons x xs ih =>
    unfold firstInOrder at h
    split at h
    · next f hf =>
      split at h
      · injection h with h; subst h; exact List.mem_cons_of_mem _ (ih hf)
      · injection h with h; subst h; exact List.mem_cons_self ..
    · injection h with h; subst h; exact List.mem_cons_self ..

/-- The first entry in the order is as urgent as every other. -/
theorem firstInOrder_least {l : List Entry} {e x : Entry} (h : firstInOrder l = some e) (hx : x ∈ l) :
    e.urgency ≤ x.urgency := by
  induction l generalizing e x with
  | nil => simp at hx
  | cons y ys ih =>
    unfold firstInOrder at h
    split at h
    · next f hf =>
      split at h
      · injection h with h; subst h
        rcases List.mem_cons.1 hx with rfl | hx
        · omega
        · exact ih hf hx
      · injection h with h; subst h
        rcases List.mem_cons.1 hx with rfl | hx
        · exact le_rfl
        · exact (by omega : y.urgency ≤ f.urgency).trans (ih hf hx)
    · next hn =>
      injection h with h; subst h
      rcases List.mem_cons.1 hx with rfl | hx
      · exact le_rfl
      · cases ys with
        | nil => simp at hx
        | cons z zs =>
          unfold firstInOrder at hn
          split at hn
          · split at hn <;> cases hn
          · cases hn

/-! ### What a request keeps and adds (R158, R165) -/

theorem foldl_max_le (l : List Nat) (n : Nat) : n ≤ l.foldl max n ∧ ∀ x ∈ l, x ≤ l.foldl max n := by
  induction l generalizing n with
  | nil => simp
  | cons a l ih =>
    obtain ⟨h1, h2⟩ := ih (max n a)
    refine ⟨(le_max_left n a).trans h1, fun x hx => ?_⟩
    rcases List.mem_cons.1 hx with rfl | hx
    · exact (le_max_right n x).trans h1
    · exact h2 x hx

theorem foldl_max_mem (l : List Nat) (n : Nat) : l.foldl max n = n ∨ l.foldl max n ∈ l := by
  induction l generalizing n with
  | nil => simp
  | cons a l ih =>
    rw [List.foldl_cons]
    rcases ih (max n a) with h | h
    · rcases max_choice n a with h2 | h2
      · left; rw [h, h2]
      · right; rw [h, h2]; exact List.mem_cons_self ..
    · right; exact List.mem_cons_of_mem _ h

theorem Txq.urgency_le_leastUrgent {q : Txq} {e : Entry} (h : e ∈ q.waiting) : e.urgency ≤ q.leastUrgent :=
  (foldl_max_le _ 0).2 _ (List.mem_map_of_mem h)

theorem Txq.youngestOf_urgency {q : Txq} {n : Nat} {e : Entry} (h : q.youngestOf n = some e) : e.urgency = n := by
  have := List.find?_some h
  simpa using this

/-- The least urgent class that waits has a youngest entry. -/
theorem Txq.exists_youngest {q : Txq} (h : 0 < q.leastUrgent) : ∃ d, q.youngestOf q.leastUrgent = some d := by
  have hm : q.leastUrgent ∈ q.waiting.map Entry.urgency := by
    rcases foldl_max_mem (q.waiting.map Entry.urgency) 0 with h2 | h2
    · unfold Txq.leastUrgent at h; omega
    · exact h2
  obtain ⟨e, he, hu⟩ := List.mem_map.1 hm
  have : (q.waiting.reverse.find? (fun e => e.urgency == q.leastUrgent)).isSome = true := by
    rw [List.find?_isSome]
    exact ⟨e, by simpa using he, by simp [hu]⟩
  exact Option.isSome_iff_exists.1 this

/-- Two entries of a sound queue with one key are one entry. -/
theorem Txq.Sound.eq_of_key {q : Txq} (hq : q.Sound) {x y : Entry} (hx : x ∈ q.entries) (hy : y ∈ q.entries)
    (h : x.key = y.key) : x = y :=
  List.inj_on_of_nodup_map hq.keys hx hy h

/-- The keys after a request merged into a held entry. -/
theorem Txq.merge_keys (l : List Entry) (e : Entry) :
    (l.map (fun h => if h.key = e.key then h.mergeRequest e else h)).map Entry.key = l.map Entry.key := by
  rw [List.map_map]
  refine List.map_congr_left (fun h _ => ?_)
  simp only [Function.comp_apply]
  split
  · next he => exact Entry.mergeRequest_key_self h e he
  · rfl

/-- R165: a request discards nothing at least as urgent as itself. -/
theorem Txq.Sound.request_keeps {q : Txq} (hq : q.Sound) (e : Entry) {x : Entry} (hx : x ∈ q.entries)
    (hu : x.urgency ≤ e.urgency) : x.key ∈ (q.request e).1.entries.map Entry.key := by
  have hk := List.mem_map_of_mem (f := Entry.key) hx
  unfold Txq.request
  split
  · split
    · exact hk
    · simp only [Txq.merge_keys]; exact hk
  · unfold Txq.add
    split
    · simp only [List.map_append]; exact List.mem_append_left _ hk
    · split
      · next hlt =>
        split
        · next d hd =>
          simp only [List.map_append, removeKey_keys]
          refine List.mem_append_left _ (List.mem_filter.2 ⟨hk, ?_⟩)
          simp only [ne_eq, decide_not, Bool.not_eq_eq_eq_not, Bool.not_true, decide_eq_false_iff_not]
          intro hkey
          have hdm := ((q.mem_waiting d).1 (Txq.youngestOf_mem hd)).1
          have hxd := hq.eq_of_key hx hdm hkey
          have := Txq.youngestOf_urgency hd
          subst hxd
          omega
        · exact hk
      · exact hk

/-- With room, or a less urgent entry waiting, a request is held. -/
theorem Txq.request_holds {q : Txq} (e : Entry)
    (h : q.entries.length < Config.queueCapacity ∨ ∃ x ∈ q.waiting, e.urgency < x.urgency) :
    e.key ∈ (q.request e).1.entries.map Entry.key := by
  unfold Txq.request
  split
  · next hh =>
    rw [Txq.holds_iff] at hh
    split
    · exact hh
    · simp only [Txq.merge_keys]; exact hh
  · unfold Txq.add
    split
    · simp
    · next hfull =>
      rcases h with h | ⟨x, hx, hlt⟩
      · exact absurd h hfull
      · have hlt2 := Nat.lt_of_lt_of_le hlt (Txq.urgency_le_leastUrgent hx)
        obtain ⟨d, hd⟩ := Txq.exists_youngest (q := q) (by omega)
        rw [if_pos hlt2, hd]
        simp

/-- R165: a request for a FAULT is never discarded. -/
theorem Txq.Sound.request_fault_holds {q : Txq} (hq : q.Sound) (f : FaultFields) :
    (q.request (.fault f)).1.holds .fault = true := by
  rw [Txq.holds_iff]
  by_cases hh : q.holds .fault = true
  · rw [Txq.holds_iff] at hh
    obtain ⟨x, hx, hk⟩ := List.mem_map.1 hh
    have hu : x.urgency = 0 := by
      cases x <;> simp_all [Entry.key, Entry.urgency]
    have := hq.request_keeps (.fault f) hx (by rw [hu]; exact Nat.zero_le _)
    rwa [hk] at this
  · refine Txq.request_holds (.fault f) ?_
    by_cases hlen : q.entries.length < Config.queueCapacity
    · exact Or.inl hlen
    · right
      have hne : ∀ x ∈ q.entries, 0 < x.urgency := by
        intro x hx
        cases x with
        | fault g => exact absurd ((q.holds_iff _).2 (List.mem_map.2 ⟨_, hx, rfl⟩)) hh
        | _ => simp [Entry.urgency]
      have hcap : 12 ≤ q.entries.length := by simpa [Config.queueCapacity] using hlen
      match hl : q.entries with
      | [] => rw [hl] at hcap; simp at hcap
      | [_] => rw [hl] at hcap; simp at hcap
      | a :: b :: rest =>
        have hab : a.key ≠ b.key := by
          have := hq.keys
          rw [hl] at this
          simp only [List.map_cons, List.nodup_cons, List.mem_cons, not_or] at this
          exact this.1.1
        have ha : a ∈ q.entries := by rw [hl]; simp
        have hb : b ∈ q.entries := by rw [hl]; simp
        by_cases hfa : q.inFlight = some a.key
        · refine ⟨b, (q.mem_waiting b).2 ⟨hb, ?_⟩, hne b hb⟩
          rw [hfa]; simpa using hab
        · exact ⟨a, (q.mem_waiting a).2 ⟨ha, hfa⟩, hne a ha⟩

/-- R165: a request with room discards nothing. -/
theorem Txq.request_none {q : Txq} (e : Entry) (h : q.entries.length < Config.queueCapacity) :
    (q.request e).2 = none := by
  unfold Txq.request
  split
  · split <;> rfl
  · unfold Txq.add; rw [if_pos h]

/-- R158: a request for a key the queue does not hold, with room, joins as the youngest. -/
theorem Txq.request_fresh {q : Txq} (e : Entry) (h : q.entries.length < Config.queueCapacity)
    (hn : q.holds e.key = false) : q.request e = ({ q with entries := q.entries ++ [e] }, none) := by
  unfold Txq.request Txq.add
  rw [if_neg (by simp [hn]), if_pos h]

end Sys2Proof.Machine
end

