-- ==== Sys2Proof/Laws/Keeps.lean ====
section
/-!
SUPPORT. Every shared operation keeps the queue, the log and the board sound. The lemmas are conditional simp rules, so
that the soundness of a long composition follows by `simp`.
-/

namespace Sys2Proof.Machine

variable {s : State}

/-! ### The queue -/

@[simp] theorem State.request_txq (s : State) (e : Entry) : (s.request e).txq = (s.txq.request e).1 := by
  simp [State.request]

/-- What the queue's mark and soundness are after an operation that ends no attempt. -/
structure TxqKept (q r : Txq) : Prop where
  inFlight : r.inFlight = q.inFlight
  sound    : q.Sound → r.Sound

theorem TxqKept.refl (q : Txq) : TxqKept q q := ⟨rfl, id⟩

theorem TxqKept.trans {p q r : Txq} (h : TxqKept p q) (k : TxqKept q r) : TxqKept p r :=
  ⟨k.inFlight.trans h.inFlight, fun x => k.sound (h.sound x)⟩

theorem TxqKept.request (q : Txq) (e : Entry) : TxqKept q (q.request e).1 := ⟨by simp, fun h => h.request e⟩
theorem TxqKept.cancel (q : Txq) (k : Key) : TxqKept q (q.cancel k) := ⟨by simp, fun h => h.cancel k⟩
theorem TxqKept.purge (q : Txq) (b own : Rank) : TxqKept q (q.purge b own) := ⟨by simp, fun h => h.purge b own⟩

theorem kept_contain (s : State) (t : BoardState) : TxqKept s.txq (s.contain t).txq := by
  simpa [State.contain] using TxqKept.cancel s.txq .ready

theorem kept_holdRunning (s : State) : TxqKept s.txq s.holdRunning.txq := by
  unfold State.holdRunning; split
  · exact kept_contain s _
  · exact TxqKept.refl _

theorem kept_evalAdvance (s : State) : TxqKept s.txq s.evalAdvance.txq := by
  unfold State.evalAdvance; split
  · simpa using TxqKept.request s.txq _
  · exact TxqKept.refl _

theorem kept_settleTerms (s : State) (d : Dvu) : TxqKept s.txq (s.settleTerms d).txq := by
  unfold State.settleTerms; split
  · exact kept_evalAdvance s
  · exact TxqKept.refl _

theorem kept_freezeIf (s : State) (b : Bool) : TxqKept s.txq (s.freezeIf b).txq := by
  unfold State.freezeIf; split
  · simpa using TxqKept.cancel s.txq .advance
  · exact TxqKept.refl _

theorem kept_addHold (s : State) (i : StationId) : TxqKept s.txq (s.addHold i).txq := by
  simpa [State.addHold] using kept_freezeIf (s.setHold _) s.holdClear

theorem kept_reconcile (s : State) (i : StationId) (h : Bool) : TxqKept s.txq (s.reconcile i h).txq := by
  unfold State.reconcile; split
  · exact kept_addHold s i
  · simpa using TxqKept.refl s.txq

theorem kept_containFault (s : State) (c : Cause) : TxqKept s.txq (s.containFault c).txq := by
  unfold State.containFault; dsimp only; split
  · simpa [State.contain] using TxqKept.cancel s.txq .ready
  · simpa [State.contain] using TxqKept.cancel s.txq .ready

theorem kept_localFault (s : State) (c : Cause) (sc : Scope) : TxqKept s.txq (s.localFault c sc).txq := by
  unfold State.localFault
  split
  · refine (kept_containFault s c).trans ?_
    refine TxqKept.trans ?_ (kept_settleTerms _ _)
    dsimp only
    split <;> simpa using TxqKept.request _ _
  · exact TxqKept.refl _

theorem kept_strapFault (s : State) (c : Cause) : TxqKept s.txq (s.strapFault c).txq := kept_localFault s c _

theorem kept_boardRewind (s : State) (b : Rank) : TxqKept s.txq (s.boardRewind b).txq := by
  unfold State.boardRewind; split
  · simpa using kept_holdRunning s
  · simpa using TxqKept.refl s.txq

theorem kept_rewind (s : State) (b : Rank) (c : Cause) (r : Option (Option Scope × Option StationId)) :
    TxqKept s.txq (s.rewind b c r).txq := by
  unfold State.rewind
  refine TxqKept.trans ?_ (kept_evalAdvance _)
  have h := (kept_boardRewind (s.setDvu (s.dvu.rewind b (c == .start) s.self s.profile)) b).trans
    (TxqKept.purge _ b s.rank)
  split <;> simpa [State.rank] using h

theorem kept_raiseView (s : State) (b : Rank) : TxqKept s.txq (s.raiseView b).txq := by
  simpa [State.raiseView] using TxqKept.request s.txq _

theorem kept_viewCheck (s : State) (i : StationId) (a : AnnounceFields) : TxqKept s.txq (s.viewCheck i a).txq := by
  unfold State.viewCheck; split
  · simpa using TxqKept.refl s.txq
  · simpa using kept_raiseView (s.updateRecord i _) _

theorem kept_catchUp (s : State) (i : StationId) (e : Epoch) (a : AnnounceFields) :
    TxqKept s.txq (s.catchUp i e a).txq := by
  unfold State.catchUp
  refine TxqKept.trans ?_ (kept_evalAdvance _)
  have h := kept_reconcile ((s.setDvu (s.dvu.catchUp e a s.profile)).applyAnnounce i a) i a.holding
  have h2 := h.trans (kept_boardRewind _ a.base)
  have h3 := (h2.trans (TxqKept.purge _ a.base s.rank)).trans (TxqKept.request _ .announce)
  simpa [State.rank] using h3

theorem kept_adopt (s : State) (i : StationId) (e : Epoch) (a : AnnounceFields) :
    TxqKept s.txq (s.adopt i e a).txq := by
  unfold State.adopt
  refine TxqKept.trans ?_ (kept_evalAdvance _)
  simpa [State.rank] using (TxqKept.purge s.txq a.base s.rank).trans (TxqKept.request _ .announce)

theorem kept_found (s : State) : TxqKept s.txq s.found.txq := by
  unfold State.found
  refine TxqKept.trans ?_ (kept_evalAdvance _)
  simpa using TxqKept.request s.txq _

theorem kept_blockBoard (s : State) : TxqKept s.txq s.blockBoard.txq := by
  unfold State.blockBoard; split
  · exact kept_contain s _
  · exact kept_contain s _
  · simpa using TxqKept.refl s.txq
  · exact TxqKept.refl _
  · exact TxqKept.refl _

theorem kept_cancelFor (s : State) (f : Frame) : TxqKept s.txq (s.cancelFor f).txq := by
  unfold State.cancelFor; dsimp only; split
  · simpa using (TxqKept.cancel s.txq _).trans (TxqKept.cancel _ _)
  · simpa using TxqKept.cancel s.txq _

theorem kept_applyRemembered (s : State) (r : Option Remembered) (b : Option Rank) :
    TxqKept s.txq (s.applyRemembered r b).txq := by
  unfold State.applyRemembered
  split
  · split
    · split
      · exact TxqKept.refl _
      · simpa using TxqKept.request s.txq _
    · simpa using TxqKept.request s.txq _
  · simpa using TxqKept.request s.txq _
  · exact TxqKept.refl _

theorem kept_removeMember (s : State) (i : StationId) : TxqKept s.txq (s.removeMember i).txq := by
  simpa using TxqKept.refl s.txq

/-- A run of requests, one for each element of a list. -/
theorem kept_foldl {α : Type} (l : List α) (f : State → α → State) (h : ∀ t a, TxqKept t.txq (f t a).txq) (s : State) :
    TxqKept s.txq (l.foldl f s).txq := by
  induction l generalizing s with
  | nil => exact TxqKept.refl _
  | cons a l ih => exact (h s a).trans (ih (f s a))

theorem kept_requestLapses (s : State) : TxqKept s.txq s.requestLapses.txq := by
  refine kept_foldl _ _ (fun t i => ?_) s
  split
  · simpa using TxqKept.request t.txq _
  · exact TxqKept.refl _

theorem kept_reRequestResume (s : State) : TxqKept s.txq s.reRequestResume.txq := by
  unfold State.reRequestResume; split
  · simpa using TxqKept.request s.txq _
  · exact TxqKept.refl _

theorem kept_raiseLate (s : State) (b : Rank) : TxqKept s.txq (s.raiseLate b).txq := by
  simpa [State.raiseLate] using TxqKept.request s.txq _

theorem kept_settleAction (s : State) : TxqKept s.txq s.settleAction.txq := by
  unfold State.settleAction; split
  · split
    · simpa using TxqKept.request s.txq _
    · exact kept_raiseLate s _
  · exact TxqKept.refl _

theorem kept_announceRule (s : State) (i : StationId) (e : Epoch) (a : AnnounceFields) :
    TxqKept s.txq (s.announceRule i e a).txq := by
  unfold State.announceRule
  split
  · have h := (kept_reconcile (s.applyAnnounce i a) i a.holding).trans (kept_viewCheck _ i a)
    simpa [State.announceEqual] using h
  · split
    · exact kept_catchUp s i e a
    · simpa using TxqKept.refl s.txq
  · simpa using TxqKept.request s.txq _

theorem kept_advanceRule (s : State) (i : StationId) (e : Epoch) (o n : Front) :
    TxqKept s.txq (s.advanceRule i e o n).txq := by
  unfold State.advanceRule
  split
  · refine TxqKept.trans ?_ (kept_evalAdvance _)
    simpa using TxqKept.refl s.txq
  · exact kept_evalAdvance s

theorem kept_rankTimeoutRule (s : State) (i : StationId) (e : Epoch) (k : Rank) :
    TxqKept s.txq (s.rankTimeoutRule i e k).txq := by
  unfold State.rankTimeoutRule
  split
  · simpa using kept_evalAdvance (s.setDvu (s.dvu.markLate.startSettle s.profile))
  · exact TxqKept.refl _

theorem kept_memberSilentRule (s : State) (i : StationId) (e : Epoch) (t : StationId) :
    TxqKept s.txq (s.memberSilentRule i e t).txq := by
  unfold State.memberSilentRule
  split
  · split
    · simpa using TxqKept.request s.txq _
    · exact kept_removeMember s t
  · exact TxqKept.refl _

theorem kept_faultRule (s : State) (i : StationId) (e : Epoch) (f : FaultFields) :
    TxqKept s.txq (s.faultRule i e f).txq := by
  unfold State.faultRule State.applyFault
  split
  · split
    · exact kept_rewind s _ _ _
    · simpa using kept_evalAdvance (s.markLocal i f.senderRank)
  · simpa using TxqKept.request s.txq _
  · exact TxqKept.refl _

theorem kept_holdRule (s : State) (i : StationId) : TxqKept s.txq (s.holdRule i).txq := by
  unfold State.holdRule
  split
  · simpa using kept_addHold s i
  · exact TxqKept.refl _

theorem kept_resumeRule (s : State) (i : StationId) : TxqKept s.txq (s.resumeRule i).txq := by
  simpa [State.resumeRule] using TxqKept.refl s.txq

theorem kept_readyRule (s : State) (i : StationId) (e : Epoch) (k : Rank) :
    TxqKept s.txq (s.readyRule i e k).txq := by
  unfold State.readyRule
  split
  · simpa using TxqKept.refl s.txq
  · exact TxqKept.refl _

theorem kept_queryRule (s : State) (i t : StationId) (it : Item) (tag : Tag) :
    TxqKept s.txq (s.queryRule i t it tag).txq := by
  unfold State.queryRule
  dsimp only
  split <;> split <;> first | (simpa using TxqKept.request s.txq _) | (simpa using TxqKept.refl s.txq)

theorem kept_replyRule (s : State) (i : StationId) (r : ReplyFields) : TxqKept s.txq (s.replyRule i r).txq := by
  unfold State.replyRule
  split
  · simpa using TxqKept.cancel s.txq _
  · exact TxqKept.refl _

end Sys2Proof.Machine
end

