-- ==== Sys2Proof/Laws/Arrivals.lean ====
section
/-!
SUPPORT. What the arrival of a frame can do, said once: its outcomes.
-/

namespace Sys2Proof.Machine

/-- R134 to R137, R148: what holds of every outcome of a valid frame's arrival holds of the arrival. -/
theorem State.arriveValid_cases {P : State → Prop} (s : State) (f : Frame) (rule : State → State) (same : P s)
    (done : s.stc.station ≠ .start → P s.frameDone)
    (adopted : ∀ a, f.body = .announce a → s.stc.station = .listen →
      s.frameDone.adoptable f.sender f.epoch a = true → P (s.frameDone.adopt f.sender f.epoch a))
    (own : s.stc.station = .member → s.lif.drove f = true → P (s.frameDone.applyArrival f true rule))
    (blocked : s.stc.station = .member → s.lif.drive.isFrame = false → f.sender = s.self → P s.frameDone.enterBlocked)
    (other : s.stc.station = .member → s.lif.drive.isFrame = false → f.sender ≠ s.self →
      P (s.frameDone.applyArrival f false rule)) : P (s.arriveValid f rule) := by
  unfold State.arriveValid
  split
  · exact same
  rename_i hx
  unfold State.takeArrival
  dsimp only
  split
  · exact same
  · next hst =>
    unfold State.listenArrival
    split
    · next a ha =>
      split
      · next had => exact adopted a ha hst had
      · exact done (by simp [hst])
    · exact done (by simp [hst])
  · next hst => exact done (by simp [hst])
  · next hst => exact done (by simp [hst])
  · next hst =>
    split
    · next hd => exact own hst hd
    · next hd =>
      have hnf : s.lif.drive.isFrame = false := by
        by_contra hc
        simp only [Bool.not_eq_false] at hc
        simp [hc, hd] at hx
      split
      · next hs => exact blocked hst hnf hs
      · next hs => exact other hst hnf hs

/-- R134 to R137, R147, R148: an arrival is a reception fault, or that of a valid frame once a collision has been settled. -/
theorem State.arrive_cases {P : State → Prop} (s : State) (f : Frame) (rule : State → State)
    (fault : P s.receptionFault) (valid : frameValid f = true → P (s.settleCollision.arriveValid f rule)) :
    P (s.arrive f rule) := by
  unfold State.arrive
  split
  · exact fault
  · next h => exact valid (by simpa using h)

/-- With no collision to settle a valid frame simply arrives. -/
theorem State.arrive_valid {s : State} {f : Frame} (hv : frameValid f = true) (h : s.lif.collisionDue = false)
    (rule : State → State) : s.arrive f rule = s.arriveValid f rule := by
  unfold State.arrive State.settleCollision
  simp [hv, h]

/-- A MEMBER's own frame is a frame it sent. -/
theorem Lif.drove_isFrame {l : Lif} {f : Frame} (h : l.drove f = true) : l.drive.isFrame = true := by
  unfold Lif.drove at h
  split at h
  · next e => rw [e]; rfl
  · cases h

end Sys2Proof.Machine
end

