-- ==== Sys2Proof/Laws/Log.lean ====
section
/-!
SUPPORT. Every shared operation keeps the Cause Log sound (R179, R182, R187).
-/

namespace Sys2Proof.Machine

theorem dropOldest_length (l : List CauseRecord) : (dropOldest l).length = l.length - 1 := by
  match l with
  | [] => rfl
  | [_] => rfl
  | _ :: _ :: _ => rfl

/-- R182: the sequence numbers of the records that stay. -/
theorem dropOldest_seq (l : List CauseRecord) : (dropOldest l).map CauseRecord.seq = l.tail.map CauseRecord.seq := by
  match l with
  | [] => rfl
  | [_] => rfl
  | _ :: _ :: _ => rfl

/-- A log whose sequence numbers count on to the next one. -/
theorem clg_sound_iff (c : Clg) : c.Sound ↔ c.records.length ≤ Config.logCapacity ∧
    ∀ (i : Nat) (h : i < (c.records.map CauseRecord.seq).length),
      (c.records.map CauseRecord.seq)[i] = c.nextSeq - BitVec.ofNat 8 ((c.records.map CauseRecord.seq).length - i) := by
  constructor
  · intro h
    exact ⟨h.capacity, fun i hi => by
      have := h.numbers i (by simpa using hi)
      simpa using this⟩
  · intro h
    exact ⟨h.1, fun i hi => by
      have := h.2 i (by simpa using hi)
      simpa using this⟩

/-- R182, R187: a log without its oldest record, marked or not, is sound. -/
theorem Clg.Sound.of_tail {c : Clg} (h : c.Sound) {l : List CauseRecord}
    (hl : l.map CauseRecord.seq = c.records.tail.map CauseRecord.seq) : (⟨l, c.nextSeq⟩ : Clg).Sound := by
  have hlen : l.length = c.records.length - 1 := by
    have := congrArg List.length hl
    simpa using this
  refine (clg_sound_iff _).2 ⟨by have := h.capacity; simp only [hlen]; omega, ?_⟩
  intro i hi
  simp only [hl] at hi ⊢
  simp only [List.length_map, List.length_tail] at hi ⊢
  have hn := h.numbers (i + 1) (by omega)
  simp only [List.getElem_map, List.getElem_tail]
  rw [hn]
  congr 2
  omega

/-- R179: a record with the next number joins a log that has room. -/
theorem Clg.Sound.push {c : Clg} (h : c.Sound) (hlt : c.records.length < Config.logCapacity) {r : CauseRecord}
    (hr : r.seq = c.nextSeq) : (⟨c.records ++ [r], c.nextSeq + 1⟩ : Clg).Sound := by
  refine ⟨by simpa using hlt, fun i hi => ?_⟩
  simp only [List.length_append, List.length_singleton] at hi ⊢
  rcases Nat.lt_or_ge i c.records.length with hlt' | hge
  · rw [List.getElem_append_left hlt', h.numbers i hlt']
    have e : c.records.length + 1 - i = (c.records.length - i) + 1 := by omega
    rw [e, BitVec.ofNat_add]
    generalize BitVec.ofNat 8 (c.records.length - i) = x
    bv_omega
  · obtain rfl : i = c.records.length := by omega
    simp only [List.getElem_concat_length, hr]
    have e : c.records.length + 1 - c.records.length = 1 := by omega
    rw [e]
    bv_omega

theorem makeRoom_log {s : State} (h : s.clg.Sound) :
    s.makeRoom.clg.Sound ∧ s.makeRoom.clg.records.length < Config.logCapacity ∧
      s.makeRoom.clg.nextSeq = s.clg.nextSeq := by
  unfold State.makeRoom
  split
  · next hlt => exact ⟨h, hlt, rfl⟩
  · refine ⟨?_, ?_, rfl⟩
    · simpa using h.of_tail (dropOldest_seq _)
    · have := h.capacity
      simp only [State.setLpt_clg, State.setClg_clg, dropOldest_length]
      have : Config.logCapacity = 16 := rfl
      omega

@[simp] theorem append_log {s : State} (h : s.clg.Sound) (c : Cause) (sc : Option Scope) (o : Option StationId)
    (b : Option Rank) (d : Bool) : (s.append c sc o b d).clg.Sound := by
  obtain ⟨h1, h2, h3⟩ := makeRoom_log h
  simp only [State.append, State.mirrorOwn_clg, State.pushRecord_clg]
  exact h1.push h2 h3.symm

@[simp] theorem removeOldest_log {s : State} (h : s.clg.Sound) : s.removeOldest.clg.Sound := by
  simp only [State.removeOldest, State.mirrorOwn_clg, State.setClg_clg]
  exact h.of_tail rfl

@[simp] theorem localFault_log {s : State} (h : s.clg.Sound) (c : Cause) (sc : Scope) :
    (s.localFault c sc).clg.Sound := by
  unfold State.localFault
  split
  · dsimp only; split <;> simp -implicitDefEqProofs [h]
  · exact h

@[simp] theorem strapFault_log {s : State} (h : s.clg.Sound) (c : Cause) : (s.strapFault c).clg.Sound :=
  localFault_log h c _

@[simp] theorem rewind_log {s : State} (h : s.clg.Sound) (b : Rank) (c : Cause)
    (r : Option (Option Scope × Option StationId)) : (s.rewind b c r).clg.Sound := by
  unfold State.rewind; dsimp only; split <;> simp -implicitDefEqProofs [h]

@[simp] theorem breakRewind_log {s : State} (h : s.clg.Sound) : s.breakRewind.clg.Sound := rewind_log h _ _ _

@[simp] theorem raiseView_log {s : State} (h : s.clg.Sound) (b : Rank) : (s.raiseView b).clg.Sound := by
  simp -implicitDefEqProofs [State.raiseView, h]

@[simp] theorem viewCheck_log {s : State} (h : s.clg.Sound) (i : StationId) (a : AnnounceFields) :
    (s.viewCheck i a).clg.Sound := by
  unfold State.viewCheck; split
  · simpa using h
  · exact raiseView_log (by simpa using h) _

@[simp] theorem catchUp_log {s : State} (h : s.clg.Sound) (i : StationId) (e : Epoch) (a : AnnounceFields) :
    (s.catchUp i e a).clg.Sound := by
  simp -implicitDefEqProofs [State.catchUp, h]

@[simp] theorem raiseLate_log {s : State} (h : s.clg.Sound) (b : Rank) : (s.raiseLate b).clg.Sound := by
  simp -implicitDefEqProofs [State.raiseLate, h]

@[simp] theorem settleAction_log {s : State} (h : s.clg.Sound) : s.settleAction.clg.Sound := by
  unfold State.settleAction; split
  · split <;> simp -implicitDefEqProofs [h]
  · exact h

@[simp] theorem enterIsolated_log {s : State} (h : s.clg.Sound) (d : Bool) : (s.enterIsolated d).clg.Sound := by
  unfold State.enterIsolated; dsimp only; split <;> simp only [State.holdRunning_clg, State.setDvu_clg] <;>
    exact append_log (by simpa using h) _ _ _ _ _

@[simp] theorem enterBlocked_log {s : State} (h : s.clg.Sound) : s.enterBlocked.clg.Sound := by
  simp only [State.enterBlocked, State.blockBoard_clg, State.setDvu_clg]
  exact append_log (by simpa using h) _ _ _ _ _

@[simp] theorem announceRule_log {s : State} (h : s.clg.Sound) (i : StationId) (e : Epoch) (a : AnnounceFields) :
    (s.announceRule i e a).clg.Sound := by
  unfold State.announceRule State.announceEqual; split <;> (try split) <;> simp -implicitDefEqProofs [h]

@[simp] theorem faultRule_log {s : State} (h : s.clg.Sound) (i : StationId) (e : Epoch) (f : FaultFields) :
    (s.faultRule i e f).clg.Sound := by
  unfold State.faultRule State.applyFault; split <;> (try split) <;> simp -implicitDefEqProofs [h]

@[simp] theorem deliver_log {s : State} (h : s.clg.Sound) (m : Option Mark) : (s.deliver m).clg.Sound := by
  unfold State.deliver; split <;> (try split) <;> (try split) <;> simp -implicitDefEqProofs [h]

end Sys2Proof.Machine
end

