-- ==== Sys2Proof/Laws/Board.lean ====
section
/-!
SUPPORT. Every shared operation keeps the board's bookkeeping sound (R71, R77, R84, R87 to R89, R92 to R94).
-/

namespace Sys2Proof.Machine

/-! ### Boards that do not run -/

/-- A board that does not run is sound in any station state. -/
theorem Bsu.Sound.elsewhere {b : Bsu} {c d : Stc} (h : b.Sound c) (hn : boardRunning b.board = false) : b.Sound d :=
  ⟨h.watchdog, h.budget, h.recovery, h.stable, by simp [hn], by simp [hn], by simp [hn]⟩

/-- What is left of soundness when the band, the latch or the station state has just changed. -/
structure Bsu.Core (b : Bsu) : Prop where
  watchdog : b.watchdog.isArmed = true ↔ boardRunning b.board = true
  budget   : b.budget = 3 ↔ b.board = .excluded
  recovery : b.recovery.isRunning = true ↔ b.board = .recover
  stable   : b.stable.isRunning = true → b.board = .ready

theorem Bsu.Sound.core {b : Bsu} {c : Stc} (h : b.Sound c) : b.Core := ⟨h.watchdog, h.budget, h.recovery, h.stable⟩

theorem Bsu.Core.stopped {b : Bsu} {c : Stc} (h : b.Core) (hn : boardRunning b.board = false) : b.Sound c :=
  ⟨h.watchdog, h.budget, h.recovery, h.stable, by simp [hn], by simp [hn], by simp [hn]⟩

theorem boardRunning_iff (b : BoardState) : boardRunning b = true ↔ b = .runup ∨ b = .ready := by
  cases b <;> simp [boardRunning]

/-- A running board that goes to HELD. -/
theorem Bsu.Core.contain_held {b : Bsu} {c : Stc} (h : b.Core) (hr : boardRunning b.board = true) (p : Profile) :
    (b.contain p .held).Sound c := by
  have h1 := h.budget
  have h2 := h.recovery
  rcases (boardRunning_iff _).1 hr with hb | hb <;> simp only [hb] at h1 h2 <;>
    constructor <;> simp_all [Bsu.contain, boardRunning, Watchdog.isArmed, Timer.isRunning]

/-! ### The operations -/

@[simp] theorem State.setBsu_bsu (s : State) (b : Bsu) : (s.setBsu b).bsu = b := by simp [State.setBsu]

@[simp] theorem State.contain_bsu (s : State) (t : BoardState) : (s.contain t).bsu = s.bsu.contain s.profile t := by
  simp [State.contain]

theorem State.holdRunning_bsu (s : State) :
    s.holdRunning.bsu = if s.running then s.bsu.contain s.profile .held else s.bsu := by
  unfold State.holdRunning; split <;> simp

theorem holdRunning_board {s : State} (h : s.bsu.Core) (c : Stc) : s.holdRunning.bsu.Sound c := by
  rw [State.holdRunning_bsu]
  split
  · next hr => exact h.contain_held hr _
  · next hr => exact h.stopped (by simpa [State.running] using hr)

/-- R71: a release in MEMBER. -/
theorem evalRelease_board {s : State} (h : s.bsu.Sound s.stc) : s.evalRelease.bsu.Sound s.stc := by
  unfold State.evalRelease
  split
  · next hc =>
    simp only [State.releaseCondition, Bool.and_eq_true, beq_iff_eq, Bool.or_eq_true, State.isMember] at hc
    obtain ⟨hb, ⟨⟨⟨hm, _⟩, _⟩, hband⟩, hl⟩ := hc
    have h1 := h.budget
    have h2 := h.recovery
    have h3 := h.stable
    rw [State.setBsu_bsu]
    constructor <;> simp_all [boardRunning, Watchdog.isArmed]
    intro hh; simpa [hh] using hl
  · exact h

theorem chargedBudget_eq_three {n : Budget} {c : Cause} (hn : n ≠ 3) :
    chargedBudget n c = 3 ↔ exhausts n c = true := by
  revert hn; unfold exhausts chargedBudget
  cases causeCounts c <;> simp

/-- R84, R89: a local fault of a running board contains it. -/
theorem containFault_board {s : State} (h : s.bsu.Core) (hr : s.running = true) (cause : Cause) (c : Stc) :
    (s.containFault cause).bsu.Sound c := by
  have h1 := h.budget
  have h2 := h.recovery
  have hn : s.bsu.budget ≠ 3 := by
    intro hc
    rw [State.running, h1.1 hc] at hr
    cases hr
  have hx := chargedBudget_eq_three (c := cause) hn
  have hrec : s.bsu.recovery.isRunning = false := by
    by_contra hc
    rw [State.running, h2.1 (by simpa using hc)] at hr
    cases hr
  unfold State.containFault
  dsimp only
  split
  · next he =>
    rw [State.contain_bsu]
    constructor <;> simp_all [Bsu.contain, boardRunning, Watchdog.isArmed, Timer.isRunning]
  · next he =>
    rw [State.contain_bsu]
    constructor <;> simp_all [Bsu.contain, boardRunning, Watchdog.isArmed, Timer.isRunning]

@[simp] theorem State.localFault_bsu (s : State) (cause : Cause) (scope : Scope) :
    (s.localFault cause scope).bsu = if s.running then (s.containFault cause).bsu else s.bsu := by
  unfold State.localFault
  split
  · dsimp only; split <;> simp
  · rfl

theorem localFault_board {s : State} (h : s.bsu.Core) (c : Stc) (cause : Cause) (scope : Scope) :
    (s.localFault cause scope).bsu.Sound c := by
  rw [State.localFault_bsu]
  split
  · next hr => exact containFault_board h hr cause c
  · next hr => exact h.stopped (by simpa [State.running] using hr)

theorem boardRewind_board {s : State} (h : s.bsu.Sound s.stc) (b : Rank) : (s.boardRewind b).bsu.Sound s.stc := by
  unfold State.boardRewind
  split
  · simpa using evalRelease_board (s := s.holdRunning) (by simpa using holdRunning_board h.core s.stc)
  · exact evalRelease_board h

theorem rewind_board {s : State} (h : s.bsu.Sound s.stc) (b : Rank) (c : Cause)
    (r : Option (Option Scope × Option StationId)) : (s.rewind b c r).bsu.Sound s.stc := by
  unfold State.rewind; dsimp only
  have := boardRewind_board (s := s.setDvu (s.dvu.rewind b (c == .start) s.self s.profile)) (by simpa using h) b
  split <;> simpa using this

theorem catchUp_board {s : State} (h : s.bsu.Sound s.stc) (i : StationId) (e : Epoch) (a : AnnounceFields) :
    (s.catchUp i e a).bsu.Sound s.stc := by
  unfold State.catchUp; dsimp only
  have := boardRewind_board (s := ((s.setDvu (s.dvu.catchUp e a s.profile)).applyAnnounce i a).reconcile i a.holding)
    (by simpa using h) a.base
  simpa using this

theorem blockBoard_board {s : State} (h : s.bsu.Core) (c : Stc) : s.blockBoard.bsu.Sound c := by
  have h1 := h.watchdog
  have h2 := h.budget
  have h3 := h.recovery
  have h4 := h.stable
  unfold State.blockBoard
  split
  · next hb => rw [State.contain_bsu]; exact h.contain_held (by simp [hb, boardRunning]) _
  · next hb => rw [State.contain_bsu]; exact h.contain_held (by simp [hb, boardRunning]) _
  · next hb =>
    rw [State.setBsu_bsu]
    constructor <;> simp_all [boardRunning, Timer.isRunning]
  · next hb => exact h.stopped (by simp [hb, boardRunning])
  · next hb => exact h.stopped (by simp [hb, boardRunning])

/-- R87: a board HELD after a recovery, a release of an exclusion, or any change that leaves it HELD. -/
theorem Bsu.Core.held {b : Bsu} {c : Stc} (hb : b.board = .held) (h1 : b.watchdog.isArmed = false) (h2 : b.budget ≠ 3)
    (h3 : b.recovery.isRunning = false) (h4 : b.stable.isRunning = false) : b.Sound c := by
  constructor <;> simp_all [boardRunning]

theorem clearExclusion_board {s : State} (h : s.bsu.Sound s.stc) : s.clearExclusion.bsu.Sound s.stc := by
  unfold State.clearExclusion
  split
  · next hb =>
    have h1 := h.watchdog
    have h3 := h.recovery
    have h4 := h.stable
    have key : (s.setBsu { s.bsu with board := .held, budget := 0 }).bsu.Sound s.stc := by
      rw [State.setBsu_bsu]
      refine Bsu.Core.held rfl ?_ (by simp) ?_ ?_ <;> simp_all [boardRunning]
    have := evalRelease_board (s := s.setBsu { s.bsu with board := .held, budget := 0 }) (by simpa using key)
    simpa using this
  · exact h

end Sys2Proof.Machine
end

