-- ==== Sys2Proof/Laws/View.lean ====
section
/-!
SUPPORT. Every shared operation keeps the view sound (R6 to R10).
-/

namespace Sys2Proof.Machine

/-! ### The own record, alone -/

/-- R9: a record shows the station's own blocks. -/
structure Record.Shows (r : Record) (rank : Rank) (board : BoardState) (budget : Budget) (log : Bool) : Prop where
  present    : r.present = true
  rank       : r.rank = rank
  board      : r.board = board
  budget     : r.budget = budget
  logPending : r.logPending = log
  silence    : r.silence = 0

theorem ownSound_iff (s : State) :
    OwnSound s ↔ (s.record s.self).Shows s.rank s.bsu.board s.bsu.budget s.logPending :=
  ⟨fun h => ⟨h.1, h.2, h.3, h.4, h.5, h.6⟩, fun h => ⟨h.1, h.2, h.3, h.4, h.5, h.6⟩⟩

/-- What a state's soundness of view depends on besides the tables. -/
theorem ViewSound.of_same {s t : State} (h : ViewSound s) (hst : t.stc.station = .member → s.stc.station = .member)
    (hstraps : t.stc.straps = s.stc.straps) (hb : t.bsu.board = s.bsu.board) (hn : t.bsu.budget = s.bsu.budget)
    (hl : t.logPending = s.logPending) (hr : t.dvu.records = s.dvu.records) (hh : t.dvu.holdSet = s.dvu.holdSet)
    (hg : t.dvu.gather = true → t.dvu.front = .none) : ViewSound t := by
  have hrec : ∀ i, t.record i = s.record i := fun i => by simp only [State.record, hr]
  refine ⟨fun hm => ?_, fun i => by rw [hrec]; exact h.records i, fun i hi => ?_, hg⟩
  · have := (ownSound_iff s).1 (h.own (hst hm))
    rw [ownSound_iff, hrec]
    simp only [State.self, State.rank, hstraps, hb, hn, hl] at this ⊢
    exact this
  · rw [hrec]; exact h.holders i (by rw [← hh]; exact hi)

/-- R8 to R10: one record changed. -/
theorem ViewSound.update {s : State} (h : ViewSound s) (i : StationId) (f : Record → Record)
    (hs : (f (s.record i)).Sound) (hp : (s.record i).present = true → (f (s.record i)).present = true)
    (ho : i = s.self → (s.record i).Shows s.rank s.bsu.board s.bsu.budget s.logPending →
      (f (s.record i)).Shows s.rank s.bsu.board s.bsu.budget s.logPending) : ViewSound (s.updateRecord i f) := by
  refine ⟨fun hm => ?_, fun j => ?_, fun j hj => ?_, ?_⟩
  · have hm' : s.stc.station = .member := by simpa using hm
    have h0 := (ownSound_iff s).1 (h.own hm')
    rw [ownSound_iff]
    have e1 : (s.updateRecord i f).self = s.self := by simp [State.self]
    have e2 : (s.updateRecord i f).rank = s.rank := by simp [State.rank]
    have e3 : (s.updateRecord i f).logPending = s.logPending := by simp [State.logPending]
    rw [e1, e2, e3, State.updateRecord_bsu, record_updateRecord]
    split
    · next hj => subst hj; exact ho rfl h0
    · exact h0
  · rw [record_updateRecord]
    split
    · exact hs
    · exact h.records j
  · have hj' : s.dvu.holdSet[j] = true := by simpa using hj
    rw [record_updateRecord]
    split
    · next e => subst e; exact hp (h.holders _ hj')
    · exact h.holders j hj'
  · simpa using h.gather

/-! ### What the mirror restores -/

/-- The view but for what the own record shows of the blocks. -/
structure ViewBase (s : State) : Prop where
  own     : s.stc.station = .member → (s.record s.self).present = true ∧ (s.record s.self).silence = 0
  records : ∀ i : StationId, (s.record i).Sound
  holders : ∀ i : StationId, s.dvu.holdSet[i] = true → (s.record i).present = true
  gather  : s.dvu.gather = true → s.dvu.front = .none

theorem ViewSound.base {s : State} (h : ViewSound s) : ViewBase s :=
  ⟨fun hm => ⟨(h.own hm).present, (h.own hm).silence⟩, h.records, h.holders, h.gather⟩

theorem ViewBase.of_same {s t : State} (h : ViewBase s) (hst : t.stc = s.stc) (hd : t.dvu = s.dvu) : ViewBase t := by
  have hrec : ∀ i, t.record i = s.record i := fun i => by simp only [State.record, hd]
  have hself : t.self = s.self := by simp only [State.self, hst]
  exact ⟨fun hm => by rw [hrec, hself]; exact h.own (by rw [← hst]; exact hm), fun i => by rw [hrec]; exact h.records i,
    fun i hi => by rw [hrec]; exact h.holders i (by rw [← hd]; exact hi), by rw [hd]; exact h.gather⟩

theorem Record.Sound.mirror {r : Record} (h : r.Sound) (k : Rank) (b : BoardState) (n : Budget) (l : Bool) :
    (r.mirror k b n l).Sound := by
  refine ⟨fun hp => ?_, fun hr => ?_⟩
  · obtain ⟨h1, h2, h3, h4⟩ := h.absent hp
    exact ⟨by simp [Record.mirror, h1], h2, h3, h4⟩
  · simp only [Record.mirror, Bool.and_eq_true, beq_iff_eq] at hr ⊢
    exact hr.2

/-- R9: the mirror makes the own record show the blocks. -/
theorem ViewBase.mirrorOwn {s : State} (h : ViewBase s) : ViewSound s.mirrorOwn := by
  have e1 : s.mirrorOwn.self = s.self := by simp [State.self]
  have e2 : s.mirrorOwn.rank = s.rank := by simp [State.rank]
  have e3 : s.mirrorOwn.logPending = s.logPending := by simp [State.logPending]
  refine ⟨fun hm => ?_, fun i => ?_, fun i hi => ?_, by simpa using h.gather⟩
  · have hm' : s.stc.station = .member := by simpa using hm
    obtain ⟨h1, h2⟩ := h.own hm'
    rw [ownSound_iff, e1, e2, e3, State.mirrorOwn_bsu, record_mirrorOwn]
    simp only [hm', true_and, if_true]
    exact ⟨h1, rfl, rfl, rfl, rfl, h2⟩
  · rw [record_mirrorOwn]; split
    · exact (h.records i).mirror _ _ _ _
    · exact h.records i
  · have hi' : s.dvu.holdSet[i] = true := by simpa using hi
    rw [record_mirrorOwn]; split
    · exact h.holders i hi'
    · exact h.holders i hi'

/-! ### The operations -/

theorem setBsu_view {s : State} (h : ViewBase s) (b : Bsu) : ViewSound (s.setBsu b) :=
  ViewBase.mirrorOwn (h.of_same rfl rfl)

theorem append_view {s : State} (h : ViewSound s) (c : Cause) (sc : Option Scope) (o : Option StationId)
    (b : Option Rank) (d : Bool) : ViewSound (s.append c sc o b d) :=
  ViewBase.mirrorOwn (h.base.of_same (by simp) (by simp))

theorem removeOldest_view {s : State} (h : ViewSound s) : ViewSound s.removeOldest :=
  ViewBase.mirrorOwn (h.base.of_same (by simp) (by simp))

theorem request_view {s : State} (h : ViewSound s) (e : Entry) : ViewSound (s.request e) :=
  h.of_same (by simp) (by simp) (by simp) (by simp) (by simp [State.logPending]) (by simp) (by simp) (by simpa using h.gather)

theorem cancel_view {s : State} (h : ViewSound s) (k : Key) : ViewSound (s.cancel k) :=
  h.of_same (by simp) (by simp) (by simp) (by simp) (by simp [State.logPending]) (by simp) (by simp) (by simpa using h.gather)

theorem purge_view {s : State} (h : ViewSound s) (b : Rank) : ViewSound (s.purge b) :=
  h.of_same (by simp) (by simp) (by simp) (by simp) (by simp [State.logPending]) (by simp) (by simp) (by simpa using h.gather)

theorem contain_view {s : State} (h : ViewBase s) (t : BoardState) : ViewSound (s.contain t) :=
  cancel_view (setBsu_view h _) _

theorem holdRunning_view {s : State} (h : ViewSound s) : ViewSound s.holdRunning := by
  unfold State.holdRunning; split
  · exact contain_view h.base _
  · exact h

theorem evalRelease_view {s : State} (h : ViewSound s) : ViewSound s.evalRelease := by
  unfold State.evalRelease; split
  · exact setBsu_view h.base _
  · exact h

theorem evalAdvance_view {s : State} (h : ViewSound s) : ViewSound s.evalAdvance := by
  unfold State.evalAdvance; split
  · exact request_view h _
  · exact h

theorem settleTerms_view {s : State} (h : ViewSound s) (d : Dvu) : ViewSound (s.settleTerms d) := by
  unfold State.settleTerms; split
  · exact evalAdvance_view h
  · exact h

theorem boardRewind_view {s : State} (h : ViewSound s) (b : Rank) : ViewSound (s.boardRewind b) := by
  unfold State.boardRewind; split
  · exact evalRelease_view (holdRunning_view h)
  · exact evalRelease_view h

theorem containFault_view {s : State} (h : ViewSound s) (c : Cause) : ViewSound (s.containFault c) := by
  unfold State.containFault; dsimp only
  split
  · exact contain_view (ViewBase.of_same (t := s.putBsu _) h.base (by simp) (by simp)) _
  · exact contain_view (ViewBase.of_same (t := s.putBsu _) h.base (by simp) (by simp)) _

theorem localFault_view {s : State} (h : ViewSound s) (c : Cause) (sc : Scope) : ViewSound (s.localFault c sc) := by
  unfold State.localFault; split
  · dsimp only
    refine settleTerms_view (request_view ?_ _) _
    have key : ∀ {t : State} (q : Qru), ViewSound t → ViewSound (t.setQru q) := fun q ht =>
      ht.of_same (by simp) (by simp) (by simp) (by simp) (by simp [State.logPending]) (by simp) (by simp)
        (by simpa using ht.gather)
    refine key _ ?_
    split
    · exact append_view (append_view (containFault_view h c) _ _ _ _ _) _ _ _ _ _
    · exact append_view (containFault_view h c) _ _ _ _ _
  · exact h

theorem hear_view {s : State} (h : ViewSound s) (i : StationId) : ViewSound (s.hear i) := by
  refine h.update i _ ?_ ?_ ?_
  · split
    · next hp => exact ⟨by simp [hp], (h.records i).ready⟩
    · exact h.records i
  · split <;> simp
  · intro _ ho
    split
    · exact ⟨ho.1, ho.2, ho.3, ho.4, ho.5, rfl⟩
    · exact ho

theorem Record.Sound.joinIfAbsent {r : Record} (h : r.Sound) (e : Epoch) :
    (r.joinIfAbsent e).Sound ∧ (r.joinIfAbsent e).present = true := by
  unfold Record.joinIfAbsent Record.join
  split
  · next hp => exact ⟨h, hp⟩
  · next hp =>
    have := (h.absent (by simpa using hp)).1
    exact ⟨⟨by simp, by simp [this]⟩, rfl⟩

theorem Record.joinIfAbsent_of_present {r : Record} (h : r.present = true) (e : Epoch) : r.joinIfAbsent e = r := by
  simp [Record.joinIfAbsent, h]

/-- R14: the record an applied ANNOUNCE leaves. -/
theorem applyAnnounce_view {s : State} (h : ViewSound s) (hm : s.stc.station = .member) (i : StationId)
    (a : AnnounceFields) :
    ViewSound (s.applyAnnounce i a) ∧ ((s.applyAnnounce i a).record i).present = true := by
  obtain ⟨hj, hjp⟩ := (h.records i).joinIfAbsent s.dvu.epoch
  have hown := (ownSound_iff s).1 (h.own hm)
  constructor
  · refine h.update i _ ?_ ?_ ?_
    · dsimp only; split
      · next e =>
        subst e
        rw [Record.joinIfAbsent_of_present hown.present]
        refine ⟨by simp [Record.ownAnnounced, hown.present], ?_⟩
        simp only [Record.ownAnnounced, Bool.or_eq_true, Bool.and_eq_true, beq_iff_eq, hown.board]
        rintro (hr | hr)
        · rw [← hown.board]; exact (h.records _).ready hr
        · exact hr.2
      · exact ⟨by simp [Record.announced, hjp], by simp [Record.announced]⟩
    · intro _; dsimp only; split <;> simp [Record.ownAnnounced, Record.announced, hjp]
    · rintro rfl ho
      simp only [if_true, Record.joinIfAbsent_of_present ho.present]
      exact ⟨ho.1, ho.2, ho.3, ho.4, ho.5, ho.6⟩
  · simp only [State.applyAnnounce, record_updateRecord, if_true]
    split <;> simp [Record.ownAnnounced, Record.announced, hjp]

theorem setHold_view {s : State} (h : ViewSound s) (v : Vector Bool 32)
    (hv : ∀ i : StationId, v[i] = true → (s.record i).present = true) : ViewSound (s.setHold v) := by
  refine ⟨fun hm => ?_, h.records, hv, h.gather⟩
  exact (ownSound_iff _).2 ((ownSound_iff s).1 (h.own hm))

theorem vset_eq {i j : StationId} (v : Vector Bool 32) (b : Bool) : (v.set i b)[j] = if j = i then b else v[j] := by
  simp only [Fin.getElem_fin]
  rw [Vector.getElem_set]
  simp only [Fin.val_inj, eq_comm (a := i)]

theorem addHold_view {s : State} (h : ViewSound s) (i : StationId) (hp : (s.record i).present = true) :
    ViewSound (s.addHold i) := by
  have : ViewSound (s.setHold (s.dvu.holdSet.set i true)) := by
    refine setHold_view h _ (fun j hj => ?_)
    rw [vset_eq] at hj
    split at hj
    · next e => rw [e]; exact hp
    · exact h.holders j hj
  unfold State.addHold State.freezeIf
  split
  · exact cancel_view this _
  · exact this

theorem removeHold_view {s : State} (h : ViewSound s) (i : StationId) : ViewSound (s.removeHold i) := by
  refine setHold_view h _ (fun j hj => ?_)
  rw [vset_eq] at hj
  split at hj
  · cases hj
  · exact h.holders j hj

theorem reconcile_view {s : State} (h : ViewSound s) (i : StationId) (b : Bool) (hp : (s.record i).present = true) :
    ViewSound (s.reconcile i b) := by
  unfold State.reconcile; split
  · exact addHold_view h i hp
  · exact removeHold_view h i

theorem viewCheck_view {s : State} (h : ViewSound s) (i : StationId) (a : AnnounceFields)
    (hp : (s.record i).present = true) : ViewSound (s.viewCheck i a) := by
  have key : ∀ b : Bool, ViewSound (s.updateRecord i (fun r => { r with disagree := b })) := fun b =>
    h.update i _ ⟨fun hx => by simp [hp] at hx, (h.records i).ready⟩ id
      (fun _ ho => ⟨ho.1, ho.2, ho.3, ho.4, ho.5, ho.6⟩)
  unfold State.viewCheck State.raiseView
  split
  · exact key _
  · exact request_view (append_view (key _) _ _ _ _ _) _

/-- A new table of records with the front and the gather flag. -/
theorem ViewSound.setDvu {s : State} (h : ViewSound s) (d : Dvu)
    (hs : ∀ i : StationId, (d.records[i]).Sound) (hp : ∀ i : StationId, (s.record i).present = true → (d.records[i]).present = true)
    (ho : (s.record s.self).Shows s.rank s.bsu.board s.bsu.budget s.logPending →
      (d.records[s.self]).Shows s.rank s.bsu.board s.bsu.budget s.logPending)
    (hh : d.holdSet = s.dvu.holdSet) (hg : d.gather = true → d.front = .none) : ViewSound (s.setDvu d) := by
  refine ⟨fun hm => ?_, hs, fun i hi => hp i (h.holders i ?_), hg⟩
  · exact (ownSound_iff _).2 (ho ((ownSound_iff s).1 (h.own hm)))
  · rw [← hh]; exact hi

theorem ViewSound.setDvu_same {s : State} (h : ViewSound s) (d : Dvu) (hr : d.records = s.dvu.records)
    (hh : d.holdSet = s.dvu.holdSet) (hg : d.gather = true → d.front = .none) : ViewSound (s.setDvu d) :=
  h.of_same (by simp) (by simp) (by simp) (by simp) (by simp [State.logPending]) (by simpa using hr) (by simpa using hh)
    (by simpa using hg)

@[simp] theorem Dvu.startSettle_records (d : Dvu) (p : Profile) : (d.startSettle p).records = d.records := rfl
@[simp] theorem Dvu.startGather_records (d : Dvu) (p : Profile) : (d.startGather p).records = d.records := rfl
@[simp] theorem Dvu.startSettle_holdSet (d : Dvu) (p : Profile) : (d.startSettle p).holdSet = d.holdSet := rfl
@[simp] theorem Dvu.startGather_holdSet (d : Dvu) (p : Profile) : (d.startGather p).holdSet = d.holdSet := rfl
@[simp] theorem Dvu.startSettle_gather (d : Dvu) (p : Profile) : (d.startSettle p).gather = d.gather := rfl
@[simp] theorem Dvu.startGather_gather (d : Dvu) (p : Profile) : (d.startGather p).gather = d.gather := rfl
@[simp] theorem Dvu.startSettle_front (d : Dvu) (p : Profile) : (d.startSettle p).front = d.front := rfl
@[simp] theorem Dvu.startGather_front (d : Dvu) (p : Profile) : (d.startGather p).front = d.front := rfl

theorem Record.Sound.rewind {r : Record} (h : r.Sound) (b : Rank) : (r.rewind b).Sound := by
  unfold Record.rewind
  split
  · next hp =>
    split
    · exact ⟨by simp [hp], by simp⟩
    · exact ⟨by simp [hp], h.ready⟩
  · exact h

theorem Record.Sound.rewindOwn {r : Record} (h : r.Sound) (b : Rank) : (r.rewindOwn b).Sound := by
  unfold Record.rewindOwn
  split
  · next hp =>
    refine ⟨by simp [hp], fun hr => h.ready ?_⟩
    simp only [Bool.and_eq_true] at hr
    exact hr.1
  · exact h

theorem Record.rewind_present (r : Record) (b : Rank) : (r.rewind b).present = r.present := by
  unfold Record.rewind; split
  · split <;> rfl
  · rfl

theorem Record.rewindOwn_present (r : Record) (b : Rank) : (r.rewindOwn b).present = r.present := by
  unfold Record.rewindOwn; split <;> rfl

theorem Dvu.rewind_records (d : Dvu) (b : Rank) (g : Bool) (self : StationId) (p : Profile) (i : StationId) :
    (d.rewind b g self p).records[i] = if i = self then (d.records[i]).rewindOwn b else (d.records[i]).rewind b := by
  simp [Dvu.rewind]

theorem rewind_view {s : State} (h : ViewSound s) (b : Rank) (c : Cause) (hb : c = .start → b = 0)
    (r : Option (Option Scope × Option StationId)) : ViewSound (s.rewind b c r) := by
  have h1 : ViewSound (s.setDvu (s.dvu.rewind b (c == .start) s.self s.profile)) := by
    refine h.setDvu _ (fun i => ?_) (fun i hi => ?_) (fun ho => ?_) (by simp [Dvu.rewind]) (fun hg => ?_)
    · rw [Dvu.rewind_records]; split
      · exact (h.records i).rewindOwn b
      · exact (h.records i).rewind b
    · rw [Dvu.rewind_records]; split
      · rw [Record.rewindOwn_present]; exact hi
      · rw [Record.rewind_present]; exact hi
    · rw [Dvu.rewind_records, if_pos rfl]
      have := ho.present
      simp only [State.record] at this
      unfold Record.rewindOwn
      rw [if_pos this]
      exact ⟨this, ho.2, ho.3, ho.4, ho.5, ho.6⟩
    · have : c = .start := by simpa [Dvu.rewind] using hg
      subst this
      simp [Dvu.rewind, frontBelow, hb rfl]
  unfold State.rewind; dsimp only
  refine evalAdvance_view ?_
  have h2 := purge_view (boardRewind_view h1 b) b
  split
  · exact append_view h2 _ _ _ _ _
  · exact h2

theorem announceConsistent_gather {a : AnnounceFields} (h : announceConsistent a = true) (hg : a.gather = true) :
    a.front = .none := by
  simp [announceConsistent, hg] at h
  exact h.1.1

theorem catchUp_view {s : State} (h : ViewSound s) (hm : s.stc.station = .member) (i : StationId) (e : Epoch)
    (a : AnnounceFields) (ha : announceConsistent a = true) : ViewSound (s.catchUp i e a) := by
  have h1 : ViewSound (s.setDvu (s.dvu.catchUp e a s.profile)) := by
    have hrec : ∀ i : StationId, (s.dvu.catchUp e a s.profile).records[i] =
        if (s.record i).present then { s.record i with late := false, ready := (s.record i).ready && !decide (a.base ≤ (s.record i).rank) }
        else s.record i := by
      intro i; simp [Dvu.catchUp, State.record]; rfl
    refine h.setDvu _ (fun i => ?_) (fun i hi => ?_) (fun ho => ?_) (by simp [Dvu.catchUp]) (fun hg => ?_)
    · rw [hrec]; split
      · next hp =>
        refine ⟨by simp [hp], fun hr => (h.records i).ready ?_⟩
        simp only [Bool.and_eq_true] at hr
        exact hr.1
      · exact h.records i
    · rw [hrec, if_pos hi]; exact hi
    · rw [hrec, if_pos ho.present]; exact ⟨ho.1, ho.2, ho.3, ho.4, ho.5, ho.6⟩
    · exact announceConsistent_gather ha (by simpa [Dvu.catchUp] using hg)
  obtain ⟨h2, hp⟩ := applyAnnounce_view h1 (by simpa using hm) i a
  unfold State.catchUp; dsimp only
  exact evalAdvance_view (append_view (request_view (purge_view (boardRewind_view (reconcile_view h2 i _ hp) _) _) _) _ _ _ _ _)

/-- R8, R9, R24, R25: the own record on entry to MEMBER, the other records being sound. -/
theorem makeOwnPresent_view {s : State} (hr : ∀ i : StationId, i ≠ s.self → (s.record i).Sound)
    (hh : ∀ i : StationId, i ≠ s.self → s.dvu.holdSet[i] = true → (s.record i).present = true)
    (hg : s.dvu.gather = true → s.dvu.front = .none) : ViewSound s.makeOwnPresent := by
  have e1 : s.makeOwnPresent.self = s.self := by simp [State.self]
  have e2 : s.makeOwnPresent.rank = s.rank := by simp [State.rank]
  have e3 : s.makeOwnPresent.logPending = s.logPending := by simp [State.logPending]
  have hrec : ∀ i, s.makeOwnPresent.record i = if i = s.self then
      { ((s.record s.self).join s.dvu.epoch).mirror s.rank s.bsu.board s.bsu.budget s.logPending with ready := false }
      else s.record i := fun i => by rw [State.makeOwnPresent, record_updateRecord]
  refine ⟨fun _ => ?_, fun i => ?_, fun i hi => ?_, by simpa using hg⟩
  · rw [ownSound_iff, e1, e2, e3, State.makeOwnPresent_bsu, hrec, if_pos rfl]
    exact ⟨rfl, rfl, rfl, rfl, rfl, rfl⟩
  · rw [hrec]; split
    · exact ⟨by simp [Record.join, Record.mirror], by simp⟩
    · next hne => exact hr i hne
  · have hi' : s.dvu.holdSet[i] = true := by simpa using hi
    rw [hrec]; split
    · rfl
    · next hne => exact hh i hne hi'

theorem Record.Sound.leave (r : Record) : r.leave.Sound := ⟨fun _ => ⟨rfl, rfl, rfl, rfl⟩, by simp [Record.leave]⟩

theorem adopt_view (s : State) (i : StationId) (e : Epoch) (a : AnnounceFields)
    (ha : announceConsistent a = true) (hi : i ≠ s.self) : ViewSound (s.adopt i e a) := by
  unfold State.adopt; dsimp only
  refine evalAdvance_view (evalRelease_view (request_view (purge_view ?_ _) _))
  have hd : ∀ (t : State) (j : StationId), (t.dvu.adopt i e a s.self s.profile).records[j] =
      if j = s.self ∨ j = i then t.record j else (t.record j).leave := by
    intro t j; simp [Dvu.adopt, State.record]
  set u := s.setStc { s.stc with station := .member, listenIn := .stopped } with hu
  set v := u.setDvu (u.dvu.adopt i e a s.self s.profile) with hv
  have hself : v.self = s.self := rfl
  have hvr : ∀ j, v.record j = if j = s.self ∨ j = i then s.record j else (s.record j).leave := fun j => hd u j
  have hwr : ∀ j, j ≠ s.self → v.makeOwnPresent.record j = v.record j := by
    intro j hj; rw [State.makeOwnPresent, record_updateRecord, hself, if_neg hj]
  have hws : v.makeOwnPresent.self = s.self := by simp [State.self, v, u]
  refine ⟨fun _ => ?_, fun j => ?_, fun j hj => ?_, ?_⟩
  · rw [ownSound_iff]
    have e1 : (v.makeOwnPresent.updateRecord i (fun r => r.adopted e a)).self = s.self := by simp [State.self, v, u]
    rw [e1, record_updateRecord, if_neg (Ne.symm hi), State.makeOwnPresent, record_updateRecord, hself, if_pos rfl]
    refine ⟨rfl, ?_, ?_, ?_, ?_, rfl⟩ <;> simp [Record.mirror, State.rank, State.logPending, v, u]
  · rw [record_updateRecord]; split
    · rw [hwr i hi]
      refine ⟨by simp [Record.adopted, Record.announced, Record.join], by simp [Record.adopted, Record.announced]⟩
    · next hji =>
      by_cases hjs : j = s.self
      · subst hjs
        rw [State.makeOwnPresent, record_updateRecord, hself, if_pos rfl]
        exact ⟨by simp [Record.join, Record.mirror], by simp⟩
      · rw [hwr j hjs, hvr, if_neg (by simp [hjs, hji])]
        exact Record.Sound.leave _
  · have hj' : ((Vector.replicate 32 false).set i a.holding)[j] = true := by
      simpa [v, u, Dvu.adopt] using hj
    rw [vset_eq] at hj'
    split at hj'
    · next e => subst e; rw [record_updateRecord, if_pos rfl]; rfl
    · simp at hj'
  · intro hg
    have : a.gather = true := by simpa [v, u, Dvu.adopt] using hg
    simpa [v, u, Dvu.adopt] using announceConsistent_gather ha this

theorem found_view {s : State} (h : ViewSound s) : ViewSound s.found := by
  unfold State.found; dsimp only
  refine evalAdvance_view (evalRelease_view (request_view (makeOwnPresent_view (fun i _ => ?_) (fun i _ hi => ?_) ?_) _))
  · split <;> exact h.records i
  · have : s.dvu.holdSet[i] = true := by
      revert hi; split <;> exact id
    split <;> exact h.holders i this
  · split <;> exact h.gather

/-- A station outside MEMBER has no own record to show. -/
theorem ViewSound.leave {s t : State} (h : ViewSound s) (hst : t.stc.station ≠ .member)
    (hr : t.dvu.records = s.dvu.records) (hh : t.dvu.holdSet = s.dvu.holdSet) (hg : t.dvu.gather = s.dvu.gather)
    (hf : t.dvu.front = s.dvu.front) : ViewSound t := by
  have hrec : ∀ i, t.record i = s.record i := fun i => by simp only [State.record, hr]
  exact ⟨fun hm => absurd hm hst, fun i => by rw [hrec]; exact h.records i,
    fun i hi => by rw [hrec]; exact h.holders i (by rw [← hh]; exact hi), by rw [hg, hf]; exact h.gather⟩

end Sys2Proof.Machine
end

