-- ==== Sys2Proof/Laws/Effects.lean ====
section
/-!
SUPPORT. What the shared operations do, said once in the terms of Safety.lean: an append, a release evaluation, a board
returned to HELD, a local fault, a rewind, and the departures from MEMBER.
-/

namespace Sys2Proof.Machine

/-! ### The log and the mirror -/

/-- R179, R182: an append. -/
theorem State.append_clg (s : State) (c : Cause) (sc : Option Scope) (o : Option StationId) (b : Option Rank) (d : Bool) :
    (s.append c sc o b d).clg = s.clg.appended (recordOf c sc o s.dvu.epoch b s.stc.uptime d) := by
  unfold State.append State.makeRoom Clg.appended
  split <;> simp [State.causeRecord, recordOf]

theorem State.append_logPending (s : State) (c : Cause) (sc : Option Scope) (o : Option StationId) (b : Option Rank)
    (d : Bool) : (s.append c sc o b d).logPending = true := by
  simp [State.append, State.logPending]

/-- R1: outside MEMBER nothing follows the blocks. -/
theorem State.mirrorOwn_off {s : State} (h : s.stc.station ≠ .member) : s.mirrorOwn = s := by
  unfold State.mirrorOwn State.isMember; simp [h]

theorem State.append_dvu_off {s : State} (h : s.stc.station ≠ .member) (c : Cause) (sc : Option Scope)
    (o : Option StationId) (b : Option Rank) (d : Bool) : (s.append c sc o b d).dvu = s.dvu := by
  unfold State.append
  rw [State.mirrorOwn_off (by simpa using h)]; simp

theorem State.setBsu_dvu_off {s : State} (h : s.stc.station ≠ .member) (b : Bsu) : (s.setBsu b).dvu = s.dvu := by
  unfold State.setBsu
  rw [State.mirrorOwn_off (by simpa using h)]; simp

theorem State.contain_dvu_off {s : State} (h : s.stc.station ≠ .member) (t : BoardState) : (s.contain t).dvu = s.dvu := by
  simp [State.contain, State.setBsu_dvu_off h]

theorem State.holdRunning_dvu_off {s : State} (h : s.stc.station ≠ .member) : s.holdRunning.dvu = s.dvu := by
  unfold State.holdRunning; split
  · exact State.contain_dvu_off h _
  · rfl

/-! ### The board -/

theorem Bsu.contain_stopped (b : Bsu) (p : Profile) (t : BoardState) : BoardStopped b p t (b.contain p t) :=
  ⟨rfl, rfl, rfl, rfl, rfl, rfl⟩

/-- R57, R92, R93. -/
theorem State.holdRunning_returned (s : State) : BoardReturned s.bsu s.profile s.holdRunning.bsu := by
  rw [State.holdRunning_bsu]
  constructor
  · intro h
    rw [if_pos (show s.running = true from h)]
    exact ⟨s.bsu.contain_stopped _ _, rfl, rfl⟩
  · intro h
    rw [if_neg (by simp [State.running, h])]

/-- R71: the release condition as the statements read it. -/
theorem State.releaseCondition_iff (s : State) : s.releaseCondition = true ↔ ReleaseTerms s s.bsu := by
  simp only [Bool.and_eq_true, beq_iff_eq, State.releaseCondition, State.isMember, ReleaseTerms, State.rank, frontReaches,
    Bool.or_eq_true]
  constructor
  · rintro ⟨⟨⟨⟨h2, h3⟩, h4⟩, h5⟩, h6⟩
    refine ⟨h2, of_decide_eq_true h3, h4, h5, fun hh => ?_⟩
    rcases h6 with h | h
    · rw [h] at hh; cases hh
    · exact h
  · rintro ⟨h2, h3, h4, h5, h6⟩
    refine ⟨⟨⟨⟨h2, decide_eq_true h3⟩, h4⟩, h5⟩, ?_⟩
    cases hm : s.stc.straps.fltMode
    · exact Or.inl rfl
    · exact Or.inr (h6 hm)

/-- R71, R77. -/
theorem State.evalRelease_evaluated (s : State) : ReleaseEvaluated s.bsu s.evalRelease := by
  have hterms : ReleaseTerms s.evalRelease s.bsu ↔ ReleaseTerms s s.bsu := by simp [ReleaseTerms, State.rank]
  have hc : (s.bsu.board == .held && s.releaseCondition) = true ↔
      (s.bsu.board = .held ∧ ReleaseTerms s.evalRelease s.bsu) := by
    rw [hterms, Bool.and_eq_true, beq_iff_eq, State.releaseCondition_iff]
  constructor
  · intro h1 h2
    have hp : s.evalRelease.profile = s.profile := by simp [State.profile]
    rw [hp]
    unfold State.evalRelease
    rw [if_pos (hc.2 ⟨h1, h2⟩), State.setBsu_bsu]
  · intro h
    unfold State.evalRelease
    rw [if_neg (fun hh => h (hc.1 hh))]

/-- What a release evaluation says is kept by what leaves the board, the straps, the station state and the front. -/
theorem ReleaseEvaluated.of_same {b : Bsu} {t u : State} (h : ReleaseEvaluated b t) (hb : u.bsu = t.bsu)
    (hs : u.stc.straps = t.stc.straps) (hst : u.stc.station = t.stc.station) (hf : u.dvu.front = t.dvu.front) :
    ReleaseEvaluated b u := by
  have hterms : ReleaseTerms u b ↔ ReleaseTerms t b := by simp [ReleaseTerms, State.rank, hs, hst, hf]
  have hp : u.profile = t.profile := by simp [State.profile, hs]
  exact ⟨fun h1 h2 => by rw [hb, hp]; exact h.released h1 (hterms.1 h2), fun h1 => by rw [hb]; exact h.kept (by rwa [← hterms])⟩

/-! ### Departures -/

theorem Dvu.stopTimers_frozen (d : Dvu) : ViewFrozen d d.stopTimers :=
  ⟨⟨rfl, rfl, rfl, rfl, rfl, rfl⟩, rfl, rfl, rfl, rfl, rfl⟩

/-- R94. -/
theorem State.blockBoard_blocked (s : State) : BoardBlocked s.bsu s.profile s.blockBoard.bsu := by
  unfold State.blockBoard
  split <;> rename_i hb <;> constructor <;> simp_all [boardRunning, Bsu.contain_stopped] <;> (try exact ⟨rfl, rfl⟩)

theorem State.blockBoard_dvu_off {s : State} (h : s.stc.station ≠ .member) : s.blockBoard.dvu = s.dvu := by
  unfold State.blockBoard; split
  · exact State.contain_dvu_off h _
  · exact State.contain_dvu_off h _
  · exact State.setBsu_dvu_off h _
  · rfl
  · rfl

theorem State.blockBoard_txq {s : State} (h : s.txq = Txq.reset) : s.blockBoard.txq = Txq.reset := by
  unfold State.blockBoard; split <;> simp [State.contain, h, Txq.reset, Txq.cancel, removeKey]

/-- R123, R94, R173. -/
theorem State.enterBlocked_entered (s : State) : EnteredBlocked s s.enterBlocked := by
  have hb := State.blockBoard_blocked (((((s.setStc { s.stc with station := .blocked }).setLif
    s.lif.stopSending).setTxq Txq.reset).setQru
    { s.qru with slots := mapTable (fun _ sl => sl.startStopped s.profile) s.qru.slots }).append .dupId none
    (some s.self) none |>.setDvu s.dvu.stopTimers)
  have hq := State.blockBoard_txq (s := ((((s.setStc { s.stc with station := .blocked }).setLif
    s.lif.stopSending).setTxq Txq.reset).setQru
    { s.qru with slots := mapTable (fun _ sl => sl.startStopped s.profile) s.qru.slots }).append .dupId none
    (some s.self) none |>.setDvu s.dvu.stopTimers) (by simp)
  unfold State.enterBlocked
  dsimp only
  refine ⟨by simp, by simp [Drive.stopFrame_eq], ?_, ?_, ?_, ?_, ?_, by simp, by simp⟩
  · rw [hq]; exact ⟨rfl, rfl, rfl⟩
  · rw [State.blockBoard_clg, State.setDvu_clg, State.append_clg]; simp [State.self]
  · rw [State.blockBoard_dvu_off (by simp)]; exact s.dvu.stopTimers_frozen
  · simpa [State.profile] using hb
  · intro i
    simp only [State.blockBoard_qru, State.setDvu_qru, State.append_qru, State.setQru_qru, Fin.getElem_fin,
      mapTable_getElem, Slot.startStopped]

/-- R161, R51, R96. -/
theorem Txq.fail_failed (q : Txq) : AttemptFailed q q.fail := by
  unfold Txq.fail
  constructor
  · intro h; rw [h]
  · intro h
    cases hq : q.inFlight with
    | none => exact absurd hq h
    | some k => exact ⟨rfl, rfl⟩
  · intro h; rw [h]; cases q.inFlight <;> rfl
  · intro k hk h; rw [hk, h]; rfl
  · intro a hk h
    rw [hk, h]
    refine List.map_congr_left fun e _ => ?_
    cases e <;> rfl
  · intro g hk h
    rw [hk, h]
    refine List.map_congr_left fun e _ => ?_
    cases e <;> rfl

/-- R57, R163: a running board returned to HELD cancels a READY that waits. -/
theorem State.holdRunning_txq {s : State} (h : s.txq.inFlight = none) : s.holdRunning.txq =
    if boardRunning s.bsu.board = true then
      { s.txq with entries := s.txq.entries.filter (fun e => e.key ≠ .ready) } else s.txq := by
  unfold State.holdRunning State.running
  by_cases hr : boardRunning s.bsu.board = true
  · simp [hr, State.contain, State.cancel, Txq.cancel, removeKey, h]
  · simp [hr]

theorem State.holdRunning_inFlight (s : State) : s.holdRunning.txq.inFlight = s.txq.inFlight :=
  (kept_holdRunning s).inFlight

/-- R120, R92, R153: at a third drive fault the drive has already stopped (R149). -/
theorem State.enterIsolated_entered (s : State) (d : Bool) (hd : d = true → s.lif.drive = .none) :
    EnteredIsolated s (s.enterIsolated d) d := by
  have hdrive : s.lif.drive.stopFrame = if d = true ∨ s.lif.drive.isFrame = true then .none else s.lif.drive := by
    cases d with
    | true => simp [hd rfl]
    | false => simp [Drive.stopFrame_eq]
  have hr := State.holdRunning_returned (((s.endAttempt.setStc { s.stc with
    station := .isolated, listenIn := .stopped, quiet := s.quietAtEntry }).setLif { s.endAttempt.lif with
    collisions := 0, driveFaults := 0 }).append .isolated none (some s.self) none d |>.setDvu s.dvu.stopTimers)
  unfold State.enterIsolated
  dsimp only
  split
  · next hp =>
    refine ⟨by simp, by simp [State.quietAtEntry], by simp [hdrive], ?_, ⟨_, s.txq.fail_failed, ?_⟩, ?_, ?_, fun _ => ?_,
      fun h => ?_, by simp⟩
    · rw [State.holdRunning_inFlight]; simp
    · rw [State.holdRunning_txq (by simp)]; simp [hp]
    · simp [State.append_clg, State.self]
    · rw [State.holdRunning_dvu_off (by simp)]; exact s.dvu.stopTimers_frozen
    · simpa [State.profile] using hr
    · rw [hp] at h; cases h
  · next hp =>
    refine ⟨by simp, by simp [State.quietAtEntry], by simp [hdrive], by simp,
      ⟨_, s.txq.fail_failed, by simp [hp]⟩, ?_, ?_, fun h => absurd h hp, fun _ => by simp, by simp⟩
    · simp [State.append_clg, State.self]
    · exact s.dvu.stopTimers_frozen

/-! ### The own record -/

/-- R9: what the mirror leaves. -/
theorem State.mirrorOwn_follows (s : State) : OnlyOwnFollows s s.mirrorOwn := by
  constructor
  · intro i hi; rw [record_mirrorOwn]; simp [hi]
  · rw [record_mirrorOwn]
    by_cases h : s.stc.station = .member
    · simp [h, Record.mirror, State.logPending]
    · simp [h]

/-- The own record follows through a change that touches no record. -/
theorem OnlyOwnFollows.of_same {s u t : State} (h : OnlyOwnFollows u t) (hst : u.stc = s.stc)
    (hr : u.dvu.records = s.dvu.records) : OnlyOwnFollows s t := by
  have hrec : ∀ i, u.record i = s.record i := fun i => by simp only [State.record, hr]
  have hs : u.self = s.self := by simp [State.self, hst]
  refine ⟨fun i hi => by rw [← hrec]; exact h.others i (by rwa [hs]), ?_⟩
  have := h.own
  simp only [hs, hrec, hst, State.rank] at this ⊢
  exact this

theorem OnlyOwnFollows.then_same {s t u : State} (h : OnlyOwnFollows s t) (hr : u.dvu.records = t.dvu.records)
    (hb : u.bsu = t.bsu) (hl : u.clg = t.clg) : OnlyOwnFollows s u := by
  have hrec : ∀ i, u.record i = t.record i := fun i => by simp only [State.record, hr]
  refine ⟨fun i hi => by rw [hrec]; exact h.others i hi, ?_⟩
  rw [hrec, hb]
  simpa only [State.logPending, hl] using h.own

/-- A second following, the board being the same. -/
theorem OnlyOwnFollows.trans {s t u : State} (h : OnlyOwnFollows s t) (k : OnlyOwnFollows t u) (hst : t.stc = s.stc)
    (hb : u.bsu.board = t.bsu.board) : OnlyOwnFollows s u := by
  have hs : t.self = s.self := by simp [State.self, hst]
  have hr : t.rank = s.rank := by simp [State.rank, hst]
  refine ⟨fun i hi => (k.others i (by rwa [hs])).trans (h.others i hi), ?_⟩
  have h1 := h.own
  have h2 := k.own
  rw [hs, hst, hr] at h2
  rw [h2]
  by_cases hm : s.stc.station = .member
  · rw [if_pos hm] at h1
    simp only [hm, if_true]
    rw [h1, hb]
    simp
  · simp only [hm, if_false] at h1 ⊢
    exact h1

theorem State.append_follows (s : State) (c : Cause) (sc : Option Scope) (o : Option StationId) (b : Option Rank)
    (d : Bool) : OnlyOwnFollows s (s.append c sc o b d) :=
  (State.mirrorOwn_follows _).of_same (by simp) (by simp)

theorem State.setBsu_follows (s : State) (b : Bsu) : OnlyOwnFollows s (s.setBsu b) :=
  (State.mirrorOwn_follows _).of_same (by simp) (by simp)

theorem State.contain_follows (s : State) (t : BoardState) : OnlyOwnFollows s (s.contain t) :=
  (State.setBsu_follows s _).then_same rfl rfl rfl

theorem State.containFault_follows (s : State) (c : Cause) : OnlyOwnFollows s (s.containFault c) := by
  unfold State.containFault
  dsimp only
  split <;> exact (State.contain_follows _ _).of_same rfl rfl

/-! ### Local faults -/

theorem localFaultFields_scope (c : Cause) (sc : Scope) (own : Rank) :
    (localFaultFields c sc own).scope = sentScope sc own := by
  cases sc <;> simp [localFaultFields, sentScope]
  split <;> rfl

theorem faultRecordBase_sent (c : Cause) (sc : Scope) (own : Rank) :
    faultRecordBase (localFaultFields c sc own) = sentBase sc own := by
  cases sc
  · rfl
  · by_cases h : own = 0 <;> simp [localFaultFields, faultRecordBase, sentBase, sentScope, sentRewindRank, h]
  · rfl

/-- An evaluation of the advance condition discards no FAULT. -/
theorem State.evalAdvance_holds_fault {s : State} (hq : s.txq.Sound) (h : s.txq.holds .fault = true) :
    s.evalAdvance.txq.holds .fault = true := by
  unfold State.evalAdvance
  split
  · rw [Txq.holds_iff] at h ⊢
    obtain ⟨x, hx, hk⟩ := List.mem_map.1 h
    have hu : x.urgency = 0 := by cases x <;> simp_all [Entry.key, Entry.urgency]
    have := hq.request_keeps (.advance s.dvu.front s.dvu.nextFront) hx (by rw [hu]; exact Nat.zero_le _)
    rw [hk] at this
    simpa using this
  · exact h

theorem State.settleTerms_holds_fault {s : State} (d : Dvu) (hq : s.txq.Sound) (h : s.txq.holds .fault = true) :
    (s.settleTerms d).txq.holds .fault = true := by
  unfold State.settleTerms; split
  · exact State.evalAdvance_holds_fault hq h
  · exact h

/-- R165: a request drops no query while the queue has room. -/
theorem State.request_qru_room {s : State} (e : Entry) (h : s.txq.entries.length < Config.queueCapacity) :
    (s.request e).qru = s.qru := by
  have hd : (s.txq.request e).2 = none := by
    unfold Txq.request Txq.add
    rw [if_pos h]
    split
    · split <;> rfl
    · rfl
  unfold State.request
  rw [hd]
  rfl

theorem Txq.request_length (q : Txq) (e : Entry) : (q.request e).1.entries.length ≤ q.entries.length + 1 := by
  unfold Txq.request Txq.add
  split
  · split <;> simp
  · split
    · simp
    · split
      · split
        · simp only [removeKey, List.length_append, List.length_cons, List.length_nil]
          exact Nat.add_le_add_right (List.length_filter_le _ _) 1
        · simp
      · simp

theorem State.settleTerms_qru_room {s : State} (d : Dvu) (h : s.txq.entries.length < Config.queueCapacity) :
    (s.settleTerms d).qru = s.qru := by
  unfold State.settleTerms State.evalAdvance
  split
  · split
    · exact State.request_qru_room _ h
    · rfl
  · rfl

theorem State.request_settle_qru_room {s : State} (e : Entry) (d : Dvu) (h : s.txq.entries.length ≤ 10) :
    ((s.request e).settleTerms d).qru = s.qru := by
  have h1 := Txq.request_length s.txq e
  rw [State.settleTerms_qru_room d (by rw [State.request_txq]; simp only [Config.queueCapacity]; omega),
    State.request_qru_room e (by simp only [Config.queueCapacity]; omega)]

theorem State.containFault_length (s : State) (c : Cause) :
    (s.containFault c).txq.entries.length ≤ s.txq.entries.length := by
  have hc : ∀ (u : State) (t : BoardState), u.txq = s.txq → (u.contain t).txq.entries.length ≤ s.txq.entries.length := by
    intro u t hu
    simp only [State.contain, State.cancel, State.setTxq_txq, State.setBsu_txq, hu, Txq.cancel, removeKey]
    split
    · exact Nat.le_refl _
    · exact List.length_filter_le _ _
  unfold State.containFault
  dsimp only
  split <;> exact hc _ _ (by simp)

/-- A board contained by a fault (R84 steps 1 to 3). -/
theorem State.containFault_bsu (s : State) (c : Cause) :
    (s.containFault c).bsu = if exhausts s.bsu.budget c then
      { s.bsu.contain s.profile .excluded with budget := chargedBudget s.bsu.budget c }
    else { s.bsu.contain s.profile .recover with budget := chargedBudget s.bsu.budget c
                                                 recovery := .running (recoveryInterval s.profile) } := by
  unfold State.containFault
  dsimp only
  split <;> simp [Bsu.contain, State.profile]

/-- The state of a local fault before its request (R84 steps 1 to 6). -/
def State.faultRecorded (s : State) (c : Cause) (sc : Scope) : State :=
  let s1 := (s.containFault c).append c (some (localFaultFields c sc s.rank).scope) (some s.self)
    (faultRecordBase (localFaultFields c sc s.rank))
  if exhausts s.bsu.budget c then s1.append .excluded none (some s.self) none else s1

theorem State.faultRecorded_frame (s : State) (c : Cause) (sc : Scope) :
    (s.faultRecorded c sc).bsu = (s.containFault c).bsu ∧ (s.faultRecorded c sc).stc = s.stc ∧
      (s.faultRecorded c sc).lif = s.lif ∧ (s.faultRecorded c sc).qru = s.qru ∧
      (s.faultRecorded c sc).pending = s.pending ∧ (s.faultRecorded c sc).txq = (s.containFault c).txq ∧
      SameDomain s.dvu (s.faultRecorded c sc).dvu ∧ SameTimers s.dvu (s.faultRecorded c sc).dvu := by
  unfold State.faultRecorded
  dsimp only
  split <;> exact ⟨by simp, by simp, by simp, by simp, by simp, by simp, ⟨by simp, by simp, by simp, by simp, by simp, by simp⟩,
    ⟨by simp, by simp, by simp, by simp⟩⟩

theorem State.faultRecorded_follows (s : State) (c : Cause) (sc : Scope) :
    OnlyOwnFollows s (s.faultRecorded c sc) := by
  unfold State.faultRecorded
  dsimp only
  have h1 := (State.containFault_follows s c).trans (State.append_follows (s.containFault c) c
    (some (localFaultFields c sc s.rank).scope) (some s.self) (faultRecordBase (localFaultFields c sc s.rank)) false)
    (by simp) (by simp)
  split
  · exact h1.trans (State.append_follows _ _ _ _ _ _) (by simp) (by simp)
  · exact h1

theorem State.localFault_eq {s : State} (hr : s.running = true) (c : Cause) (sc : Scope) :
    s.localFault c sc = (((s.faultRecorded c sc).setQru { (s.faultRecorded c sc).qru with
      lastFault := some ⟨c, (localFaultFields c sc s.rank).scope, s.dvu.epoch⟩ }).request
      (.fault (localFaultFields c sc s.rank))).settleTerms s.dvu := by
  unfold State.localFault State.faultRecorded
  rw [if_pos hr]

theorem State.handDiscard_lastFault (s : State) (d : Option Entry) :
    (s.handDiscard d).qru.lastFault = s.qru.lastFault := by
  unfold State.handDiscard; split <;> simp

theorem State.request_lastFault (s : State) (e : Entry) : (s.request e).qru.lastFault = s.qru.lastFault := by
  simp [State.request, State.handDiscard_lastFault]

theorem State.settleTerms_lastFault (s : State) (d : Dvu) : (s.settleTerms d).qru.lastFault = s.qru.lastFault := by
  unfold State.settleTerms State.evalAdvance
  split <;> (try split) <;> simp [State.request_lastFault]

/-! ### The queue after a local fault -/

/-- What an entry of a queue was before a request. -/
theorem Txq.mem_request {q : Txq} {e x : Entry} (h : x ∈ (q.request e).1.entries) :
    x ∈ q.entries ∨ x = e ∨ ∃ y ∈ q.entries, y.key = e.key ∧ x = y.mergeRequest e := by
  unfold Txq.request at h
  split at h
  · split at h
    · exact Or.inl h
    · obtain ⟨y, hy, rfl⟩ := List.mem_map.1 h
      split
      · next hk => exact Or.inr (Or.inr ⟨y, hy, hk, rfl⟩)
      · exact Or.inl hy
  · unfold Txq.add at h
    split at h
    · rcases List.mem_append.1 h with h | h
      · exact Or.inl h
      · exact Or.inr (Or.inl (by simpa using h))
    · split at h
      · split at h
        · rcases List.mem_append.1 h with h | h
          · exact Or.inl (mem_removeKey.1 h).1
          · exact Or.inr (Or.inl (by simpa using h))
        · exact Or.inl h
      · exact Or.inl h

/-- R158: with room, an ADVANCE or an ANNOUNCE that is asked for takes no entry away. -/
theorem Txq.request_keeps_room {q : Txq} {e x : Entry} (he : (∃ o n, e = .advance o n) ∨ e = .announce)
    (hl : q.entries.length < Config.queueCapacity) (hx : x ∈ q.entries) : x ∈ (q.request e).1.entries := by
  unfold Txq.request
  split
  · split
    · exact hx
    · refine List.mem_map.2 ⟨x, hx, ?_⟩
      split
      · next hk => rcases he with ⟨o, n, rfl⟩ | rfl <;> cases x <;> simp_all [Entry.key, Entry.mergeRequest]
      · rfl
  · unfold Txq.add
    rw [if_pos hl]
    exact List.mem_append_left _ hx

theorem State.containFault_txq (s : State) (c : Cause) : (s.containFault c).txq = s.txq.cancel .ready := by
  unfold State.containFault; dsimp only; split <;> simp [State.contain, State.cancel]

/-- R31: an evaluation asks for an ADVANCE or for nothing. -/
theorem State.settleTerms_txq_cases (s : State) (d : Dvu) :
    (s.settleTerms d).txq = s.txq ∨ ∃ o n, (s.settleTerms d).txq = (s.txq.request (.advance o n)).1 := by
  unfold State.settleTerms State.evalAdvance
  split
  · split
    · exact Or.inr ⟨_, _, State.request_txq _ _⟩
    · exact Or.inl rfl
  · exact Or.inl rfl

/-- What a request remembers, for a key that is not the one in flight: nothing new. -/
theorem Txq.request_remembered {q : Txq} {e : Entry} (h : q.inFlight ≠ some e.key) :
    (q.request e).1.remembered = q.remembered := by
  unfold Txq.request Txq.add
  split
  · simp
  · split
    · rfl
    · split
      · split <;> rfl
      · rfl

/-- An entry of another key than the request's was there before. -/
theorem Txq.mem_of_mem_request {q : Txq} {e x : Entry} (h : x ∈ (q.request e).1.entries) (hk : x.key ≠ e.key) :
    x ∈ q.entries := by
  rcases Txq.mem_request h with h1 | rfl | ⟨y, _, hy, rfl⟩
  · exact h1
  · exact absurd rfl hk
  · exact absurd (by rw [Entry.mergeRequest_key_self y e hy, hy]) hk

/-- R158: with room, a request takes no entry of another key away. -/
theorem Txq.request_keeps_other {q : Txq} {e x : Entry} (hl : q.entries.length < Config.queueCapacity)
    (hx : x ∈ q.entries) (hk : x.key ≠ e.key) : x ∈ (q.request e).1.entries := by
  unfold Txq.request
  split
  · split
    · exact hx
    · exact List.mem_map.2 ⟨x, hx, if_neg hk⟩
  · unfold Txq.add
    rw [if_pos hl]
    exact List.mem_append_left _ hx

/-- R165: a waiting FAULT outlasts a request for an ADVANCE. -/
theorem Txq.Sound.fault_mem_advance {q : Txq} (hq : q.Sound) {f : FaultFields} (h : .fault f ∈ q.entries) (o n : Front) :
    .fault f ∈ (q.request (.advance o n)).1.entries := by
  have hk := hq.request_keeps (.advance o n) h (Nat.zero_le _)
  obtain ⟨x, hx, hxk⟩ := List.mem_map.1 hk
  have hm := Txq.mem_of_mem_request hx (by rw [hxk]; simp [Entry.key])
  rwa [hq.eq_of_key h hm hxk.symm]

/-- R85, R50, R160: a FAULT that is asked for joins, is merged into the waiting one or is remembered. -/
theorem Txq.Sound.request_fault {q : Txq} (hq : q.Sound) (g : FaultFields) :
    (q.holds .fault = false → .fault g ∈ (q.request (.fault g)).1.entries) ∧
    (∀ f, .fault f ∈ q.entries → q.inFlight ≠ some .fault →
      .fault (mergeFault f g) ∈ (q.request (.fault g)).1.entries) ∧
    (q.inFlight = some .fault → q.remembered = none → (q.request (.fault g)).1.remembered = some (.fault g)) := by
  refine ⟨fun hn => ?_, fun f hf hfl => ?_, fun hfl hr => ?_⟩
  · have hh := hq.request_fault_holds g
    rw [Txq.holds_iff] at hh
    obtain ⟨x, hx, hk⟩ := List.mem_map.1 hh
    rcases Txq.mem_request hx with h1 | rfl | ⟨y, hy, hyk, _⟩
    · rw [Txq.holds_eq_false_iff] at hn
      exact absurd (List.mem_map.2 ⟨x, h1, hk⟩) hn
    · exact hx
    · rw [Txq.holds_eq_false_iff] at hn
      exact absurd (List.mem_map.2 ⟨y, hy, hyk⟩) hn
  · have hh : q.holds (Entry.fault g).key = true := (Txq.holds_iff _ _).2 (List.mem_map.2 ⟨_, hf, rfl⟩)
    unfold Txq.request
    rw [if_pos hh, if_neg (show ¬q.inFlight = some (Entry.fault g).key from hfl)]
    exact List.mem_map.2 ⟨_, hf, by simp [Entry.key, Entry.mergeRequest]⟩
  · have hh : q.holds (Entry.fault g).key = true := (Txq.holds_iff _ _).2 (hq.held _ hfl)
    unfold Txq.request
    rw [if_pos hh, if_pos (show q.inFlight = some (Entry.fault g).key from hfl), hr]
    rfl

/-- The FAULT a local fault asks for (R85). -/
theorem localFaultFields_sent (s : State) (c : Cause) (sc : Scope) : localFaultFields c sc s.rank = sentFault s c sc := by
  cases sc <;> simp [localFaultFields, sentFault, sentScope, sentRewindRank]
  split <;> rfl

/-- R84 steps 4 and 8: the queue after a local fault: READY cancelled, the FAULT asked for, the advance evaluated. -/
theorem State.localFault_txq {s : State} (hr : s.running = true) (c : Cause) (sc : Scope) :
    ∃ q, q = ((s.txq.cancel .ready).request (.fault (sentFault s c sc))).1 ∧
      ((s.localFault c sc).txq = q ∨ ∃ o n, (s.localFault c sc).txq = (q.request (.advance o n)).1) := by
  refine ⟨_, rfl, ?_⟩
  obtain ⟨-, -, -, -, -, f6, -, -⟩ := State.faultRecorded_frame s c sc
  rw [State.localFault_eq hr]
  have h := State.settleTerms_txq_cases (((s.faultRecorded c sc).setQru { (s.faultRecorded c sc).qru with
      lastFault := some ⟨c, (localFaultFields c sc s.rank).scope, s.dvu.epoch⟩ }).request
      (.fault (localFaultFields c sc s.rank))) s.dvu
  simpa only [State.request_txq, State.setQru_txq, f6, State.containFault_txq, localFaultFields_sent] using h

/-- R85, R50, R160: where the FAULT of a local fault is found. -/
theorem State.localFault_request {s : State} (hr : s.running = true) (hq : s.txq.Sound) (c : Cause) (sc : Scope) :
    (s.txq.holds .fault = false → .fault (sentFault s c sc) ∈ (s.localFault c sc).txq.entries) ∧
    (∀ f, .fault f ∈ s.txq.entries → s.txq.inFlight ≠ some .fault →
      .fault (mergeFault f (sentFault s c sc)) ∈ (s.localFault c sc).txq.entries) ∧
    (s.txq.inFlight = some .fault → s.txq.remembered = none →
      (s.localFault c sc).txq.remembered = some (.fault (sentFault s c sc))) := by
  obtain ⟨q, rfl, hcase⟩ := State.localFault_txq hr c sc
  have hq0 := hq.cancel .ready
  have hqr := hq0.request (.fault (sentFault s c sc))
  obtain ⟨h1, h2, h3⟩ := hq0.request_fault (sentFault s c sc)
  have hmem : ∀ f, .fault f ∈ (s.txq.cancel .ready).entries ↔ .fault f ∈ s.txq.entries := by
    intro f
    unfold Txq.cancel
    split
    · rfl
    · simp [mem_removeKey, Entry.key]
  have hholds : s.txq.holds .fault = false → (s.txq.cancel .ready).holds .fault = false := by
    intro h
    rw [Txq.holds_eq_false_iff] at h ⊢
    intro hk
    obtain ⟨x, hx, hxk⟩ := List.mem_map.1 hk
    cases x with
    | fault f => exact h (List.mem_map.2 ⟨_, (hmem f).1 hx, rfl⟩)
    | _ => simp [Entry.key] at hxk
  have hrem : s.txq.inFlight = some .fault → (s.txq.cancel .ready).remembered = s.txq.remembered := by
    intro h; simp [Txq.cancel, h]
  have hlift : ∀ f, .fault f ∈ ((s.txq.cancel .ready).request (.fault (sentFault s c sc))).1.entries →
      .fault f ∈ (s.localFault c sc).txq.entries := by
    intro f hf
    rcases hcase with h | ⟨o, n, h⟩ <;> rw [h]
    · exact hf
    · exact hqr.fault_mem_advance hf o n
  refine ⟨fun h => hlift _ (h1 (hholds h)), fun f hf hfl => hlift _ (h2 f ((hmem f).2 hf) (by simpa using hfl)),
    fun hfl hn => ?_⟩
  have h4 := h3 (by simpa using hfl) ((hrem hfl).trans hn)
  rcases hcase with h | ⟨o, n, h⟩ <;> rw [h]
  · exact h4
  · rw [Txq.request_remembered (by simp [hfl, Entry.key]), h4]

/-- R84 step 4: a waiting READY is cancelled by a local fault, one in flight remembered as cancelled. -/
theorem State.localFault_ready {s : State} (hr : s.running = true) (c : Cause) (sc : Scope) :
    (s.txq.inFlight ≠ some .ready → ∀ r, .ready r ∉ (s.localFault c sc).txq.entries) ∧
    (s.txq.inFlight = some .ready → (s.localFault c sc).txq.remembered = some .cancellation) := by
  obtain ⟨q, rfl, hcase⟩ := State.localFault_txq hr c sc
  refine ⟨fun hfl r hm => ?_, fun hfl => ?_⟩
  · have h1 : .ready r ∈ ((s.txq.cancel .ready).request (.fault (sentFault s c sc))).1.entries := by
      rcases hcase with h | ⟨o, n, h⟩ <;> rw [h] at hm
      · exact hm
      · exact Txq.mem_of_mem_request hm (by simp [Entry.key])
    have h2 := Txq.mem_of_mem_request h1 (by simp [Entry.key])
    simp only [Txq.cancel, if_neg hfl, mem_removeKey] at h2
    exact h2.2 rfl
  · have h0 : (s.txq.cancel .ready).remembered = some .cancellation := by simp [Txq.cancel, hfl]
    have h1 : ((s.txq.cancel .ready).request (.fault (sentFault s c sc))).1.remembered = some .cancellation := by
      rw [Txq.request_remembered (by simp [hfl, Entry.key]), h0]
    rcases hcase with h | ⟨o, n, h⟩ <;> rw [h]
    · exact h1
    · rw [Txq.request_remembered (by simp [hfl, Entry.key]), h1]

/-- R84: with room for a FAULT and an ADVANCE, a local fault takes no other entry away. -/
theorem State.localFault_others {s : State} (hr : s.running = true) (c : Cause) (sc : Scope)
    (hl : s.txq.entries.length ≤ 10) {e : Entry} (he : e ∈ s.txq.entries) (hf : e.key ≠ .fault) (hy : e.key ≠ .ready) :
    e ∈ (s.localFault c sc).txq.entries := by
  obtain ⟨q, rfl, hcase⟩ := State.localFault_txq hr c sc
  have h0 : e ∈ (s.txq.cancel .ready).entries := by
    unfold Txq.cancel; split
    · exact he
    · exact mem_removeKey.2 ⟨he, hy⟩
  have hlen : (s.txq.cancel .ready).entries.length ≤ 10 := by
    unfold Txq.cancel; split
    · exact hl
    · exact (List.length_filter_le _ _).trans hl
  have h1 := Txq.request_keeps_other (e := .fault (sentFault s c sc)) (by simp only [Config.queueCapacity]; omega) h0 hf
  have h2 := Txq.request_length (s.txq.cancel .ready) (.fault (sentFault s c sc))
  rcases hcase with h | ⟨o, n, h⟩ <;> rw [h]
  · exact h1
  · exact Txq.request_keeps_room (Or.inl ⟨o, n, rfl⟩) (by simp only [Config.queueCapacity]; omega) h1

/-- R84, R85, R88, R89: a local fault of a running board. -/
theorem State.localFault_detected {s : State} (hr : s.running = true) (hb : s.bsu.budget ≠ 3) (hq : s.txq.Sound)
    (c : Cause) (sc : Scope) : FaultDetected s (s.localFault c sc) c sc := by
  have hx : exhausts s.bsu.budget c = true ↔ (budgetAfter s.bsu.budget c = 3 ∧ (c = .wdog ∨ c = .boardFlt)) := by
    revert hb; generalize s.bsu.budget = n
    cases c <;> simp [exhausts, budgetAfter, causeCounts, chargedBudget] <;> revert n <;> decide
  have hbud : (chargedBudget s.bsu.budget c).val = budgetAfter s.bsu.budget c := by
    revert hb; generalize s.bsu.budget = n
    cases c <;> simp [budgetAfter, causeCounts, chargedBudget] <;> revert n <;> decide
  obtain ⟨f1, f2, f3, f4, f5, f6, f7, f8⟩ := State.faultRecorded_frame s c sc
  have hfol := State.faultRecorded_follows s c sc
  have hqs : (s.containFault c).txq.Sound := (kept_containFault s c).sound hq
  have hreq := State.localFault_request hr hq c sc
  have hready := State.localFault_ready hr c sc
  have hothers := fun hl e he hf hy => State.localFault_others (e := e) hr c sc hl he hf hy
  rw [State.localFault_eq hr] at hreq hready hothers ⊢
  have hclg : (s.faultRecorded c sc).clg = if exhausts s.bsu.budget c then
      (s.clg.appended (recordOf c (some (sentScope sc s.rank)) (some s.self) s.dvu.epoch (sentBase sc s.rank)
        s.stc.uptime false)).appended (recordOf .excluded none (some s.self) s.dvu.epoch none s.stc.uptime false)
      else s.clg.appended (recordOf c (some (sentScope sc s.rank)) (some s.self) s.dvu.epoch (sentBase sc s.rank)
        s.stc.uptime false) := by
    unfold State.faultRecorded
    dsimp only
    split <;> simp [State.append_clg, localFaultFields_scope, faultRecordBase_sent]
  have hbsu := State.containFault_bsu s c
  constructor
  · simp only [State.settleTerms_bsu, State.request_bsu, State.setQru_bsu, f1, hbsu]
    split <;> exact hbud
  · intro h1 h2
    have he := hx.2 ⟨h1, h2⟩
    simp only [State.settleTerms_bsu, State.request_bsu, State.setQru_bsu, f1, hbsu, he, if_true,
      State.settleTerms_clg, State.request_clg, State.setQru_clg, hclg]
    exact ⟨⟨rfl, rfl, rfl, rfl, rfl, rfl⟩, rfl, trivial⟩
  · intro h
    have he : ¬exhausts s.bsu.budget c = true := fun hh => h (hx.1 hh)
    simp only [State.settleTerms_bsu, State.request_bsu, State.setQru_bsu, f1, hbsu, he, if_false,
      State.settleTerms_clg, State.request_clg, State.setQru_clg, hclg, Bool.false_eq_true]
    exact ⟨⟨rfl, rfl, rfl, rfl, rfl, rfl⟩, trivial, trivial⟩
  · rw [State.settleTerms_lastFault, State.request_lastFault]
    simp [localFaultFields_scope]
  · exact hreq
  · exact hready
  · exact hothers
  · intro hlen
    have h1 := State.containFault_length s c
    rw [State.request_settle_qru_room _ _ (by rw [State.setQru_txq, f6]; omega), State.setQru_qru, f4]
  · refine ⟨⟨?_, ?_, ?_, ?_, ?_, ?_⟩, ⟨?_, ?_, ?_, ?_⟩, hfol.then_same (by simp) (by simp) (by simp)⟩
    · simpa using f7.epoch
    · simpa using f7.base
    · simpa using f7.front
    · simpa using f7.gather
    · simpa using f7.gatherExpired
    · simpa using f7.holdSet
    · simpa using f8.announce
    · simpa using f8.gatherTimer
    · simpa using f8.settle
    · simpa using f8.holdLimit
  · simp [f2, f3, f5]

/-! ### The rewind -/

/-- No other record has changed, the own one keeps its late flag and its silence age, gains no ready flag, and the station
is the same. -/
structure OthersKept (s t : State) : Prop where
  stc     : t.stc = s.stc
  others  : ∀ i : StationId, i ≠ s.self → t.record i = s.record i
  late    : (t.record s.self).late = (s.record s.self).late
  ready   : (t.record s.self).ready = true → (s.record s.self).ready = true

theorem OthersKept.refl (s : State) : OthersKept s s := ⟨rfl, fun _ _ => rfl, rfl, id⟩

theorem OthersKept.trans {s t u : State} (h : OthersKept s t) (k : OthersKept t u) : OthersKept s u := by
  have hs : t.self = s.self := by simp [State.self, h.stc]
  refine ⟨k.stc.trans h.stc, fun i hi => (k.others i (by rwa [hs])).trans (h.others i hi), ?_, fun hr => ?_⟩
  · have := k.late; rw [hs] at this; exact this.trans h.late
  · have := k.ready; rw [hs] at this; exact h.ready (this hr)

theorem OthersKept.of_same {s t : State} (h1 : t.stc = s.stc) (h2 : t.dvu.records = s.dvu.records) : OthersKept s t := by
  have hrec : ∀ i, t.record i = s.record i := fun i => by simp only [State.record, h2]
  exact ⟨h1, fun i _ => hrec i, by rw [hrec], by rw [hrec]; exact id⟩

theorem OnlyOwnFollows.othersKept {s t : State} (h : OnlyOwnFollows s t) (hst : t.stc = s.stc) : OthersKept s t := by
  refine ⟨hst, h.others, ?_, fun hr => ?_⟩
  · rw [h.own]; split <;> rfl
  · rw [h.own] at hr
    split at hr
    · simp only [Bool.and_eq_true] at hr; exact hr.1
    · exact hr

theorem State.holdRunning_others (s : State) : OthersKept s s.holdRunning := by
  unfold State.holdRunning; split
  · exact (State.contain_follows s _).othersKept (by simp)
  · exact OthersKept.refl s

theorem State.evalRelease_others (s : State) : OthersKept s s.evalRelease := by
  unfold State.evalRelease; split
  · exact (State.setBsu_follows s _).othersKept (by simp)
  · exact OthersKept.refl s

theorem State.boardRewind_others (s : State) (b : Rank) : OthersKept s (s.boardRewind b) := by
  unfold State.boardRewind; split
  · exact (State.holdRunning_others s).trans (State.evalRelease_others _)
  · exact State.evalRelease_others s

/-- R57, R91: the own board once the view is at `b`. -/
theorem State.boardRewind_board {s : State} {b : Rank} (hf : frontValue s.dvu.front = (b.val : Int) - 1) :
    (b ≤ s.rank → BoardReturned s.bsu s.profile (s.boardRewind b).bsu) ∧
      (¬b ≤ s.rank → ReleaseEvaluated s.bsu (s.boardRewind b)) := by
  constructor
  · intro h
    have hno : ¬ReleaseTerms s.holdRunning s.holdRunning.bsu := by
      intro ht
      have h2 := ht.2.1
      simp only [State.rank, State.holdRunning_stc, State.holdRunning_dvu_front] at h2
      rw [hf] at h2
      have : b.val ≤ s.stc.straps.rank.val := h
      omega
    unfold State.boardRewind
    rw [if_pos (by simpa using h)]
    have := (State.evalRelease_evaluated s.holdRunning).kept (fun hh => hno (by
      have := hh.2
      simpa [ReleaseTerms, State.rank] using this))
    rw [this]
    exact State.holdRunning_returned s
  · intro h
    unfold State.boardRewind
    rw [if_neg (by simpa using h)]
    exact State.evalRelease_evaluated s

theorem frontBelow_value (b : Rank) : frontValue (frontBelow b) = (b.val : Int) - 1 := by
  unfold frontBelow
  split
  · next h => simp [frontValue, h]
  · next h => simp only [frontValue]; omega

theorem frontBelow_isRank (b : Rank) : frontIsRank (frontBelow b) = !decide (b = 0) := by revert b; decide

/-- R55 to R57: a rewind at a MEMBER whose own record is in order. -/
theorem State.rewind_rewound {s : State} (hs : ViewSound s) (hm : s.stc.station = .member) (b : Rank) (c : Cause)
    (hb : c = .start → b = 0) (r : Option (Option Scope × Option StationId)) :
    Rewound s (s.rewind b c r) b (c == .start) := by
  have hv := rewind_view hs b c hb r
  have hown := (ownSound_iff s).1 (hs.own hm)
  set u := s.setDvu (s.dvu.rewind b (c == .start) s.self s.profile) with hu
  have hkeep : OthersKept u (s.rewind b c r) := by
    unfold State.rewind
    dsimp only
    have h1 : OthersKept u ((u.boardRewind b).purge b) :=
      (State.boardRewind_others u b).trans (OthersKept.of_same (by simp) (by simp))
    have ha : ∀ v : State, OthersKept v v.evalAdvance := fun v => OthersKept.of_same (by simp) (by simp)
    refine OthersKept.trans ?_ (ha _)
    split
    · exact h1.trans ((State.append_follows _ _ _ _ _ _).othersKept (by simp))
    · exact h1
  have hfront : u.dvu.front = frontBelow b := rfl
  have hbr := State.boardRewind_board (s := u) (b := b) (by rw [hfront, frontBelow_value])
  have hbsu : (s.rewind b c r).bsu = (u.boardRewind b).bsu := by
    unfold State.rewind; dsimp only; split <;> simp [u]
  have hrec : ∀ i, u.record i = if i = s.self then (s.record i).rewindOwn b else (s.record i).rewind b := fun i =>
    Dvu.rewind_records _ _ _ _ _ i
  have hother : ∀ i, i ≠ s.self → (s.rewind b c r).record i = (s.record i).rewind b := by
    intro i hi
    rw [hkeep.others i hi, hrec, if_neg hi]
  have hself : (s.rewind b c r).self = s.self := by simp [State.self]
  refine ⟨?_, ?_, ?_, ?_, ?_, ?_, ?_, ?_, ?_, ?_, ?_, ?_, by simp⟩
  · unfold State.rewind; dsimp only; split <;> simp [Dvu.rewind, Dvu.startSettle, Dvu.startGather]
  · unfold State.rewind; dsimp only; split <;> simp [Dvu.rewind, Dvu.startSettle, Dvu.startGather]
  · have : (s.rewind b c r).dvu.front = frontBelow b := by
      unfold State.rewind; dsimp only; split <;> simp [Dvu.rewind, Dvu.startSettle, Dvu.startGather]
    rw [this, frontBelow_value]
  · unfold State.rewind; dsimp only; split <;> simp [Dvu.rewind, Dvu.startSettle, Dvu.startGather]
  · unfold State.rewind; dsimp only; split <;> simp [Dvu.rewind, Dvu.startSettle, Dvu.startGather]
  · have hfr := frontBelow_isRank b
    unfold State.rewind; dsimp only
    split <;> simp [Dvu.rewind, Dvu.startSettle, Dvu.startGather, hfr]
  · intro i hi hp hr
    rw [hother i hi, Record.rewind, if_pos hp, if_pos hr]
  · intro i hi hp hr
    rw [hother i hi, Record.rewind, if_pos hp, if_neg hr]
  · intro i hi hp
    rw [hother i hi, Record.rewind, if_neg (by simp [hp])]
  · have hus : u.self = s.self := rfl
    have hl := hkeep.late
    have hr := hkeep.ready
    rw [hus, hrec, if_pos rfl, Record.rewindOwn, if_pos hown.present] at hl hr
    refine ⟨hl, fun hle => ?_, ?_⟩
    · by_contra hc
      have := hr (by simpa using hc)
      simp only [Bool.and_eq_true, Bool.not_eq_eq_eq_not, Bool.not_true, decide_eq_false_iff_not, hown.rank] at this
      exact this.2 hle
    · have := (hv.own (by simpa using hm)).board
      rwa [hself] at this
  · intro h; rw [hbsu]; exact hbr.1 h
  · intro h
    refine (hbr.2 h).of_same hbsu (by simp [u]) (by simp [u]) ?_
    unfold State.rewind; dsimp only; split <;> simp [u]

/-! ### The purge -/

/-- R58, R164: the queue `q` is `p` purged at `b`, with `asked` requests for an ADVANCE or an ANNOUNCE since; every ADVANCE
in it is one that `adv` describes. -/
structure PurgedTo (p q : Txq) (b own : Rank) (asked : Nat) (adv : Front → Front → Prop) : Prop where
  advance : ∀ o n, .advance o n ∈ q.entries → adv o n
  lapse   : (∀ k, .rankTimeout k ∉ q.entries) ∧ ∀ i, .memberSilent i ∉ q.entries
  ready   : ∀ r, .ready r ∉ q.entries
  fault   : ∀ f, .fault f ∈ q.entries → ¬Absorbed f b own
  length  : q.entries.length ≤ p.entries.length + asked
  kept    : p.entries.length + asked ≤ Config.queueCapacity →
    ∀ e ∈ p.entries, p.inFlight ≠ some e.key → KeptAtRewind b own e → e ∈ q.entries
  nothing : ∀ e ∈ q.entries, e ∈ p.entries ∨ e.key = .announce ∨ e.key = .advance

theorem faultAbsorbed_iff (f : FaultFields) (b own : Rank) : faultAbsorbed f b own = true ↔ Absorbed f b own := by
  unfold faultAbsorbed Absorbed
  cases hs : f.scope <;> simp

theorem Entry.purgedBy_iff (e : Entry) (b own : Rank) : e.purgedBy b own = false ↔ KeptAtRewind b own e := by
  cases e <;> simp [Entry.purgedBy, KeptAtRewind, ← faultAbsorbed_iff]

/-- R164, R58: the purge of a queue with nothing in flight. -/
theorem Txq.purge_purged {q : Txq} (h : q.inFlight = none) (b own : Rank) (adv : Front → Front → Prop) :
    PurgedTo q (q.purge b own) b own 0 adv := by
  have hm : ∀ e, e ∈ (q.purge b own).entries ↔ e ∈ q.entries ∧ KeptAtRewind b own e := by
    intro e
    rw [← Entry.purgedBy_iff]
    simp [Txq.purge, h]
  exact
    { advance := fun o n ho => ((hm _).1 ho).2.elim
      lapse := ⟨fun k hk => ((hm _).1 hk).2.elim, fun i hi => ((hm _).1 hi).2.elim⟩
      ready := fun r hr => ((hm _).1 hr).2.elim
      fault := fun f hf => ((hm _).1 hf).2
      length := List.length_filter_le _ _
      kept := fun _ e he _ hk => (hm e).2 ⟨he, hk⟩
      nothing := fun e he => Or.inl ((hm e).1 he).1 }

/-- A request for an ADVANCE or an ANNOUNCE leaves a purged queue purged. -/
theorem PurgedTo.request {p q : Txq} {b own : Rank} {n : Nat} {adv : Front → Front → Prop} (h : PurgedTo p q b own n adv)
    {e : Entry} (he : (∃ o k, e = .advance o k ∧ adv o k) ∨ e = .announce) :
    PurgedTo p (q.request e).1 b own (n + 1) adv := by
  have hkind : (∃ o k, e = .advance o k) ∨ e = .announce := he.imp (fun ⟨o, k, h, _⟩ => ⟨o, k, h⟩) id
  have hm : ∀ x, x ∈ (q.request e).1.entries → x ∈ q.entries ∨ x = e := by
    intro x hx
    rcases Txq.mem_request hx with h1 | h1 | ⟨y, hy, hk, rfl⟩
    · exact Or.inl h1
    · exact Or.inr h1
    · left
      rcases hkind with ⟨o, n, rfl⟩ | rfl <;> cases y <;> simp_all [Entry.key, Entry.mergeRequest]
  refine ⟨fun o k hk => ?_, ⟨fun k hk => ?_, fun i hi => ?_⟩, fun r hr => ?_, fun f hf => ?_, ?_, fun hl x hx hf hk => ?_,
    fun x hx => ?_⟩
  · rcases hm _ hk with h1 | h1
    · exact h.advance o k h1
    · rcases he with ⟨o', k', rfl, ha⟩ | rfl <;> cases h1
      exact ha
  · rcases hm _ hk with h1 | h1
    · exact h.lapse.1 k h1
    · rcases hkind with ⟨o, n, rfl⟩ | rfl <;> cases h1
  · rcases hm _ hi with h1 | h1
    · exact h.lapse.2 i h1
    · rcases hkind with ⟨o, n, rfl⟩ | rfl <;> cases h1
  · rcases hm _ hr with h1 | h1
    · exact h.ready r h1
    · rcases hkind with ⟨o, n, rfl⟩ | rfl <;> cases h1
  · rcases hm _ hf with h1 | h1
    · exact h.fault f h1
    · rcases hkind with ⟨o, n, rfl⟩ | rfl <;> cases h1
  · have := Txq.request_length q e
    have := h.length
    omega
  · have := h.length
    exact Txq.request_keeps_room hkind (by omega) (h.kept (by omega) x hx hf hk)
  · rcases hm _ hx with h1 | rfl
    · exact h.nothing x h1
    · rcases hkind with ⟨o, n, rfl⟩ | rfl <;> simp [Entry.key]

/-- R31: an evaluation of the advance condition of a purged queue. -/
theorem PurgedTo.evalAdvance {p : Txq} {s : State} {b own : Rank} {n : Nat}
    (h : PurgedTo p s.txq b own n (fun o k => o = s.dvu.front ∧ k = s.dvu.nextFront)) :
    PurgedTo p s.evalAdvance.txq b own (n + 1) (fun o k => o = s.dvu.front ∧ k = s.dvu.nextFront) := by
  unfold State.evalAdvance; split
  · rw [State.request_txq]; exact h.request (Or.inl ⟨_, _, rfl, rfl, rfl⟩)
  · exact { h with length := Nat.le_succ_of_le h.length, kept := fun hl => h.kept (by omega) }

/-- A purged queue, for a purge that has followed the cancellation of READY alone. -/
theorem PurgedTo.queuePurged {s t : State} {p : Txq} {b : Rank} {n : Nat} (hn : n ≤ 2)
    (h : PurgedTo p t.txq b s.rank n (fun o k => o = t.dvu.front ∧ k = t.dvu.nextFront))
    (hp : p = s.txq ∨ p = s.txq.cancel .ready) (hf : s.txq.inFlight = none) : QueuePurged s t b := by
  have hsub : ∀ e, e ∈ p.entries ↔ e ∈ s.txq.entries ∧ (p = s.txq ∨ e.key ≠ .ready) := by
    intro e
    rcases hp with rfl | rfl
    · simp
    · have hne : (s.txq.cancel .ready).entries = removeKey s.txq.entries .ready := by simp [Txq.cancel, hf]
      rw [hne, mem_removeKey]
      refine and_congr_right fun he => ⟨Or.inr, fun h => h.elim (fun heq => ?_) id⟩
      have : e ∈ removeKey s.txq.entries .ready := by rw [← hne, heq]; exact he
      exact (mem_removeKey.1 this).2
  have hpf : p.inFlight = none := by rcases hp with rfl | rfl <;> simp [hf]
  have hlen : p.entries.length ≤ s.txq.entries.length := by
    rcases hp with rfl | rfl
    · exact Nat.le_refl _
    · simp only [Txq.cancel, removeKey]; split
      · exact Nat.le_refl _
      · exact List.length_filter_le _ _
  exact
    { advance := h.advance, lapse := h.lapse, ready := h.ready, fault := h.fault
      kept := fun hl e he _ hk => by
        refine h.kept (by simp only [Config.queueCapacity]; omega) e ((hsub e).2 ⟨he, ?_⟩) (by simp [hpf]) hk
        right; intro hkey; cases e <;> simp_all [Entry.key, KeptAtRewind]
      nothing := fun e he => (h.nothing e he).imp_left fun hh => ((hsub e).1 hh).1 }

/-- R57: what a rewind's board does to the queue: a waiting READY is cancelled or nothing happens. -/
theorem State.boardRewind_queue (s : State) (b : Rank) :
    (s.boardRewind b).txq = s.txq ∨ (s.boardRewind b).txq = s.txq.cancel .ready := by
  unfold State.boardRewind State.holdRunning State.contain
  split <;> (try split) <;> simp [State.cancel]

/-- R58, R164: a rewind with nothing in flight purges the queue and requests no more than an ADVANCE. -/
theorem State.rewind_purged {s : State} (h : s.txq.inFlight = none) (b : Rank) (c : Cause)
    (r : Option (Option Scope × Option StationId)) : QueuePurged s (s.rewind b c r) b := by
  set u := s.setDvu (s.dvu.rewind b (c == .start) s.self s.profile) with hu
  have hb : (u.boardRewind b).txq.inFlight = none := (kept_boardRewind _ b).inFlight.trans h
  have hrank : (u.boardRewind b).rank = s.rank := by simp [State.rank, u]
  have hq := State.boardRewind_queue u b
  refine PurgedTo.queuePurged (p := (u.boardRewind b).txq) (n := 1) (by omega) ?_ (by simpa [u] using hq) h
  unfold State.rewind
  dsimp only
  have hpure : ∀ v : State, v.txq = ((u.boardRewind b).purge b).txq →
      PurgedTo (u.boardRewind b).txq v.evalAdvance.txq b s.rank 1
        (fun o k => o = v.evalAdvance.dvu.front ∧ k = v.evalAdvance.dvu.nextFront) := by
    intro v hv
    have h0 := Txq.purge_purged hb b s.rank (fun o k => o = v.dvu.front ∧ k = v.dvu.nextFront)
    have h1 : PurgedTo (u.boardRewind b).txq v.txq b s.rank 0 (fun o k => o = v.dvu.front ∧ k = v.dvu.nextFront) := by
      rw [hv]; simpa [hrank] using h0
    simpa using h1.evalAdvance
  split <;> exact hpure _ (by simp [u])

end Sys2Proof.Machine
end

