-- ==== Sys2Proof/Laws/Line.lean ====
section
/-!
SUPPORT. The bits and the check character of a frame on the line, the gap, the limits of a dominant run, and what is told
of the line before an event, each said once.
-/

namespace Sys2Proof.Machine

/-! ### The bits of a frame -/

/-- An element of the joined lists of one length. -/
theorem getElem?_flatMap_of_length {α β : Type} (g : α → List β) (m : Nat) (hm : 0 < m) (hg : ∀ a, (g a).length = m)
    (l : List α) (i : Nat) : (l.flatMap g)[i]? = (l[i / m]?).bind fun a => (g a)[i % m]? := by
  induction l generalizing i with
  | nil => simp
  | cons a l ih =>
    rw [List.flatMap_cons]
    by_cases hi : i < m
    · rw [List.getElem?_append_left (by rw [hg]; exact hi), Nat.div_eq_of_lt hi, Nat.mod_eq_of_lt hi]
      rfl
    · have hle : m ≤ i := Nat.le_of_not_lt hi
      obtain ⟨k, rfl⟩ := Nat.exists_eq_add_of_le hle
      rw [List.getElem?_append_right (by rw [hg]; omega), hg, Nat.add_sub_cancel_left, ih, Nat.add_div_left _ hm,
        Nat.add_mod_left]
      rfl

/-- R140: what the station drives at a half bit of a frame is the bit of that place. -/
theorem lineBits_drivesLow (f : Frame) (n : Nat) : drivesLow f n = ((lineBits f)[n / 2]?).getD false := by
  unfold lineBits
  rw [getElem?_flatMap_of_length _ 10 (by decide) (by simp)]
  unfold drivesLow
  cases h : (encodeFrame f)[n / 2 / 10]? with
  | none => simp [h]
  | some c =>
    simp only [h, Option.bind_some]
    have hlt : n / 2 % 10 < 10 := Nat.mod_lt _ (by decide)
    generalize n / 2 % 10 = k at hlt
    interval_cases k <;> simp [List.range, List.range.loop]

theorem lineBits_length (f : Frame) : (lineBits f).length = 10 * (encodeFrame f).length := by
  simp [lineBits, Nat.mul_comm]

/-! ### The check character -/

/-- R133: a shift of the CRC register is linear. -/
theorem crcShift_xor (a b : Byte) : crcShift (a ^^^ b) = crcShift a ^^^ crcShift b := by
  unfold crcShift
  rw [BitVec.msb_xor, BitVec.shiftLeft_xor_distrib]
  generalize a <<< 1 = x
  generalize b <<< 1 = y
  cases a.msb <;> cases b.msb
  · rfl
  · exact BitVec.xor_assoc ..
  · show x ^^^ y ^^^ 7#8 = x ^^^ 7#8 ^^^ y
    rw [BitVec.xor_assoc, BitVec.xor_comm y, BitVec.xor_assoc]
  · show x ^^^ y = x ^^^ 7#8 ^^^ (y ^^^ 7#8)
    rw [BitVec.xor_comm y, ← BitVec.xor_assoc, BitVec.xor_assoc x, BitVec.xor_self, BitVec.xor_zero]

/-- R133: one bit into the register: a shift, and the generator once more where the bit is set. -/
theorem crcBit_eq (r : Byte) (b : Bool) : crcBit r b = crcShift r ^^^ (if b then 0x07#8 else 0#8) := by
  have h : r.getLsbD 7 = r.msb := by simp [BitVec.msb, BitVec.getMsbD]
  unfold crcBit crcShift
  rw [h]
  cases r.msb <;> cases b <;> simp

theorem crcShift_zero : crcShift 0#8 = 0#8 := rfl

/-- R133: a character into an empty register, bit by bit. -/
theorem crcBits_zero (c : Byte) :
    ((List.range 8).map fun k => c.getLsbD (7 - k)).foldl crcBit 0#8 = crcChar 0#8 c := by
  have h : ∀ n : Fin 256, ((List.range 8).map fun k => (BitVec.ofFin n : Byte).getLsbD (7 - k)).foldl crcBit 0#8 =
      crcChar 0#8 (BitVec.ofFin n) := by decide +kernel
  exact h c.toFin

/-- R133: a character into the register, bit by bit. -/
theorem crcBits_eq (r c : Byte) :
    ((List.range 8).map fun k => c.getLsbD (7 - k)).foldl crcBit r = crcChar r c := by
  have h0 := crcBits_zero c
  simp only [List.range, List.range.loop, List.map, List.foldl, crcBit_eq, crcShift_xor, crcShift_zero, crcChar,
    BitVec.zero_xor] at h0 ⊢
  rw [← h0]
  simp only [BitVec.xor_assoc]

/-- R133: the check character is the CRC-8 of the bits, taken one by one. -/
theorem crcSerial_eq (chars : List Byte) : crcSerial chars = crc8 chars := by
  unfold crcSerial crc8
  generalize 0xFF#8 = r
  induction chars generalizing r with
  | nil => rfl
  | cons c l ih => rw [List.flatMap_cons, List.foldl_append, crcBits_eq, ih]; rfl

/-! ### The gap (R143, R144, R146) -/

/-- R143, R144, R146: an attempt may begin at a boundary of a gap in which none has begun, or at an edge that may be joined;
nothing is driven, and no attempt awaits its outcome. -/
theorem Lif.mayBegin_iff (l : Lif) : l.mayBegin = true ↔ l.drive = .none ∧ l.mismatch = false ∧
    ((l.lineDominant = false ∧ l.gapTaken = false ∧ 24 ≤ l.idle ∧ l.idle % 2 = 0) ∨ l.joinWindow = true) := by
  rw [← show Config.gapHalves = 24 from rfl]
  simp [Lif.mayBegin, Lif.atBoundary, and_assoc]

/-- R144, R146: the edges that may be joined. -/
theorem State.edgeJoins_iff (s : State) : s.edgeJoins = true ↔ s.offered.isSome = true ∧ s.lif.drive = .none ∧
    s.lif.gapTaken = false ∧ 23 ≤ s.lif.idle ∧ s.lif.idle % 2 = 1 := by
  rw [← show Config.openHalves = 23 from rfl]
  simp [State.edgeJoins, and_assoc]

/-! ### The limits of a run -/

/-- A run whose limits have been told is left. -/
theorem State.reachLimits_told {s : State} (h1 : Config.longHalves < s.lif.runLength → s.lif.runClass ≠ .ordinary)
    (h2 : Config.stuckHalves ≤ s.lif.runLength → s.lif.runClass = .stuck) : s.reachLimits = s := by
  unfold State.reachLimits
  split
  · next h => rw [if_pos (h2 h)]
  · split
    · next h => exact absurd h.2 (h1 h.1)
    · rfl

/-! ### What is still to be told -/

/-- R152, R155: with the limits of the run told, nothing is told of it. -/
theorem State.tellLimits_told {s : State} (h : LimitsTold s.lif) : s.tellLimits = s := by
  unfold State.tellLimits
  split
  · next hd =>
    have hd' : s.lif.lineDominant = true := by simp_all
    exact State.reachLimits_told (fun h1 => (h hd').1 h1) fun h2 => (h hd').2 h2
  · rfl

/-- R147: a collision is due on a recessive line alone, where a mismatch awaits its class. -/
theorem Lif.collisionDue_iff (l : Lif) : l.collisionDue = true ↔ l.lineDominant = false ∧ l.mismatch = true := by
  simp [Lif.collisionDue, and_comm]

/-- R147: with no mismatch awaiting its class, no collision is reported. -/
theorem State.settleCollision_told {s : State} (h : CollisionTold s.lif) : s.settleCollision = s := by
  unfold State.settleCollision
  refine if_neg fun hh => ?_
  obtain ⟨hd, hm⟩ := s.lif.collisionDue_iff.1 (by simp_all)
  rw [h hd] at hm
  cases hm

/-- R147: outside START a collision that is due is reported. -/
theorem State.settleCollision_due {s : State} (hs : s.stc.station ≠ .start) (hd : s.lif.lineDominant = false)
    (hm : s.lif.mismatch = true) : s.settleCollision = s.collide := by
  have h := s.lif.collisionDue_iff.2 ⟨hd, hm⟩
  unfold State.settleCollision
  exact if_pos (by simp [State.receiving, hs, h])

/-- R153: the end of a break is due once 32 T of it have been driven. -/
theorem Lif.breakDue_iff (l : Lif) : l.breakDue = true ↔ ∃ n, l.drive = .brk n ∧ 64 ≤ n := by
  unfold Lif.breakDue
  split
  · next n h =>
    simp only [h, Drive.brk.injEq, exists_eq_left']
    exact decide_eq_true_iff
  · next h =>
    simp only [Bool.false_eq_true, false_iff]
    rintro ⟨n, h', -⟩
    exact h n h'

/-- R153: with no break's 32 T over, nothing is released. -/
theorem State.settleBreak_told {s : State} (h : BreakTold s.lif) : s.settleBreak = s := by
  unfold State.settleBreak
  refine if_neg fun hh => ?_
  obtain ⟨n, hn, h64⟩ := s.lif.breakDue_iff.1 hh
  exact absurd (h n hn) (by omega)

/-- R147, R152, R153, R155: with nothing still to be told, the line is left. -/
theorem State.settleLine_told {s : State} (h1 : LimitsTold s.lif) (h2 : CollisionTold s.lif) (h3 : BreakTold s.lif) :
    s.settleLine = s := by
  unfold State.settleLine
  rw [State.tellLimits_told h1, State.settleCollision_told h2, State.settleBreak_told h3]

/-- What the limits of a run keep, telling them keeps. -/
theorem State.tellLimits_keeps {P : State → Prop} {s : State} (h : P s) (long : ∀ u, P u → P u.passLong)
    (stuck : ∀ u, P u → P u.passStuck) : P s.tellLimits := by
  unfold State.tellLimits State.reachLimits
  split
  · split
    · split
      · exact h
      · exact stuck _ h
    · split
      · exact long _ h
      · exact h
  · exact h

/-- What the limits of a run, a collision and the end of a break keep, telling the line keeps. -/
theorem State.settleLine_keeps {P : State → Prop} {s : State} (h : P s) (long : ∀ u, P u → P u.passLong)
    (stuck : ∀ u, P u → P u.passStuck) (collided : ∀ u, P u → P u.collide) (released : ∀ u, P u → P u.releaseBreak) :
    P s.settleLine := by
  have h1 : P s.tellLimits := State.tellLimits_keeps h long stuck
  have h2 : P s.tellLimits.settleCollision := by
    unfold State.settleCollision
    split
    · exact collided _ h1
    · exact h1
  unfold State.settleLine State.settleBreak
  split
  · exact released _ h2
  · exact h2

end Sys2Proof.Machine
end

