-- ==== Sys2Proof/Laws/Port.lean ====
section
/-!
SUPPORT. The port's bytes, its take and the end of its transactions, each said once.
-/

namespace Sys2Proof.Machine

/-! ### The local port -/

/-- R138, 7.9: the eleven commands of the port. -/
theorem isPortCommand_cases {c : Instr} (h : isPortCommand c = true) :
    c = .getStatus ∨ (∃ id, c = .getMember id) ∨ c = .logTake ∨ c = .logPeek ∨ c = .holdReq ∨ c = .resumeReq ∨
      (∃ sc, c = .resetReq sc) ∨ (∃ k it, c = .queryReq k it) ∨ (∃ tag, c = .queryTake tag) ∨ c = .clearExcl ∨
      ∃ code, c = .unknownCommand code := by
  cases c with
  | getStatus | logTake | logPeek | holdReq | resumeReq | clearExcl => simp
  | getMember _ | resetReq _ | queryReq _ _ | queryTake _ | unknownCommand _ => simp
  | _ => exact absurd (show false = true from h) (by decide)

/-- R139: the byte of an unknown command that is well formed names no command. -/
theorem WellFormed_unknownCommand {code : Byte} (h : WellFormed (.unknownCommand code) = true) : code ∉ commandCodes := by
  have h' : (!commandCodes.contains code) = true := h
  simpa using h'

/-- R139: a byte that names no command is taken as an unknown command. -/
theorem takenCommand_unknown {code : Byte} (h : code ∉ commandCodes) :
    takenCommand [code] = some (.unknownCommand code) := by
  have hne : ∀ x ∈ commandCodes, ¬code = x := by
    rintro x hx rfl
    exact h hx
  show commandOfByte code = _
  unfold commandOfByte
  rw [if_neg (hne _ (by decide)), if_neg (hne _ (by decide)), if_neg (hne _ (by decide)), if_neg (hne _ (by decide)),
    if_neg (hne _ (by decide)), if_neg (hne _ (by decide)), if_neg (by simpa using h)]

/-- R138, R139: the bytes of a well-formed port command make the port take it. -/
theorem takenCommand_portBytes {c : Instr} (h : isPortCommand c = true) (hw : WellFormed c = true) :
    takenCommand (portBytes c) = some c := by
  rcases isPortCommand_cases h with rfl | ⟨_, rfl⟩ | rfl | rfl | rfl | rfl | ⟨_, rfl⟩ | ⟨_, _, rfl⟩ | ⟨_, rfl⟩ | rfl | ⟨_, rfl⟩
  all_goals first
    | rfl
    | exact takenCommand_unknown (WellFormed_unknownCommand hw)

theorem State.canTake_iff (s : State) : s.canTake = true ↔ AwaitsCommand s := by
  constructor
  · intro h
    simp only [State.canTake, Lpt.ready, Bool.and_eq_true, bne_iff_ne, beq_iff_eq, Bool.not_eq_true'] at h
    exact ⟨h.1, h.2.1, h.2.2⟩
  · rintro ⟨h1, ⟨h2, h3⟩, h4⟩
    simp [State.canTake, Lpt.ready, h1, h2, h3, h4]

/-- R138: a take in a transaction that awaits a command. -/
theorem State.take_awaits {s : State} (h : AwaitsCommand s) {c : Instr} (hc : takenCommand (portBytes c) = some c)
    (effect : State → State) (response : List Byte) (mark : Option Mark) :
    s.take c effect response mark = (effect s).respond (portBytes c) response mark :=
  if_pos ⟨s.canTake_iff.2 h, hc⟩

/-- R138: no take elsewhere. -/
theorem State.take_off {s : State} (h : ¬AwaitsCommand s) (c : Instr) (effect : State → State) (response : List Byte)
    (mark : Option Mark) : s.take c effect response mark = s :=
  if_neg fun hh => h (s.canTake_iff.1 hh.1)

/-! ### Bytes shifted in -/

/-- R138: a byte shifted in where no command may be taken is lost. -/
theorem State.shiftIn_off {s : State} (h : ¬AwaitsCommand s) (b : Byte) : s.shiftIn b = s := by
  unfold State.shiftIn
  exact if_neg fun hh => h (s.canTake_iff.1 hh)

/-! ### Bytes shifted out -/

variable (n : Nat) (s : State)

/-- R138: from the take on, bytes shifted out are the response's, until none of it is left. -/
theorem State.shiftOut_taken {s : State} (h : s.lpt.scs = .low) (ht : s.lpt.taken = true) : s.shiftOut n =
    { s with lpt := { s.lpt with shifted := min (s.lpt.shifted + n) s.lpt.response.length } } := if_pos ⟨h, ht⟩

/-- R138: before the take, and outside a transaction, none of a response goes out. -/
theorem State.shiftOut_off {s : State} (h : ¬(s.lpt.scs = .low ∧ s.lpt.taken = true)) : s.shiftOut n = s := if_neg h

/-- R188: shifting out changes the count of bytes shifted out alone. -/
theorem State.shiftOut_eq : s.shiftOut n = { s with lpt := { s.lpt with shifted := (s.shiftOut n).lpt.shifted } } := by
  by_cases h : s.lpt.scs = .low ∧ s.lpt.taken = true
  · rw [State.shiftOut_taken n h.1 h.2]
  · rw [State.shiftOut_off n h]

/-- R138: the bytes of a response may be shifted out in any portions. -/
theorem State.shiftOut_add (m : Nat) : (s.shiftOut m).shiftOut n = s.shiftOut (m + n) := by
  by_cases h : s.lpt.scs = .low ∧ s.lpt.taken = true
  · have he : min (min (s.lpt.shifted + m) s.lpt.response.length + n) s.lpt.response.length =
        min (s.lpt.shifted + (m + n)) s.lpt.response.length := by omega
    rw [State.shiftOut_taken m h.1 h.2, State.shiftOut_taken (m + n) h.1 h.2, ← he]
    exact State.shiftOut_taken n (s := { s with lpt := { s.lpt with
      shifted := min (s.lpt.shifted + m) s.lpt.response.length } }) h.1 h.2
  · rw [State.shiftOut_off m h, State.shiftOut_off n h, State.shiftOut_off (m + n) h]

@[simp] theorem State.shiftOut_stc : (s.shiftOut n).stc = s.stc := by rw [State.shiftOut_eq]
@[simp] theorem State.shiftOut_lif : (s.shiftOut n).lif = s.lif := by rw [State.shiftOut_eq]
@[simp] theorem State.shiftOut_txq : (s.shiftOut n).txq = s.txq := by rw [State.shiftOut_eq]
@[simp] theorem State.shiftOut_dvu : (s.shiftOut n).dvu = s.dvu := by rw [State.shiftOut_eq]
@[simp] theorem State.shiftOut_bsu : (s.shiftOut n).bsu = s.bsu := by rw [State.shiftOut_eq]
@[simp] theorem State.shiftOut_qru : (s.shiftOut n).qru = s.qru := by rw [State.shiftOut_eq]
@[simp] theorem State.shiftOut_clg : (s.shiftOut n).clg = s.clg := by rw [State.shiftOut_eq]
@[simp] theorem State.shiftOut_pending : (s.shiftOut n).pending = s.pending := by rw [State.shiftOut_eq]

/-! ### The end of a transaction -/

/-- R187: a transaction whose response has not gone out whole removes nothing. -/
theorem State.endTransaction_undelivered {s : State} (h : s.lpt.delivered = false) : s.endTransaction =
    { s with lpt := { s.lpt with scs := .high, observed := false, mark := none } } := by
  unfold State.endTransaction
  rw [h]
  rfl

/-- R187, R176: one whose response has gone out whole makes its removal. -/
theorem State.endTransaction_delivered {s : State} (h : s.lpt.delivered = true) : s.endTransaction =
    (s.deliver s.lpt.mark).setLpt { s.lpt with scs := .high, observed := false, mark := none } := by
  unfold State.endTransaction
  rw [h]
  simp

end Sys2Proof.Machine
end

