-- ==== Sys2Proof/Tests/Slice0.lean ====
section
/-!
SUPPORT. Tests on small states: ill-formed commands, the manual's worked words, one or two steps of each command, and for
each statement a state that meets its hypotheses, clause by clause, at the boundary values of their ranges.
-/

namespace Sys2Proof.Tests

open Sys2Proof.Machine

/-! ### States -/

/-- Station 3 at rank 2, profile P0, 50 kbit/s, CONT = RANK. -/
def straps : Straps := ⟨3, 2, .p0, .k50, 1, .low, .low, .low⟩

/-- A present record at a rank. -/
def present (r : Rank) (b : BoardState) : Record := ⟨true, r, b, false, false, 0, 1, false, 0, false⟩

/-- Station 3 as a MEMBER of epoch 1 at front 1, with station 5 at rank 1 beside it. -/
def member : State :=
  { State.reset with
    stc := { Stc.reset with station := .member, porApplied := false, straps := straps }
    dvu := { Dvu.reset with
      epoch := 1, front := .rank 1, announce := .running 50, settle := .running 1000
      records := (Dvu.reset.records.set 3 (present 2 .held)).set 5 (present 1 .runup) } }

/-- The same station in another station state. -/
def inState (c : StationState) : State := member.setStc { member.stc with station := c }

def withBsu (b : Bsu) : State := member.putBsu b

def withDvu (d : Dvu) : State := member.setDvu d

def withLif (c : StationState) (l : Lif) : State := (inState c).setLif l

/-- A running board. -/
def runBoard : Bsu := { Bsu.reset with board := .runup, watchdog := .first 2000, band := .normal, holdDown := .expired }

/-- Station 3 driving a frame for an entry. -/
def sending (b : Body) (e : Entry) : State :=
  { member with
    lif := { Lif.reset with drive := .frame ⟨3, 1, b⟩ 7 }
    txq := ⟨[e], some e.key, none⟩ }

/-- Station 3 after a mismatch in a READY it drove: its run has ended on a recessive line. -/
def mismatch (rx : Receive) (collisions : Fin 3) : State :=
  { sending (.ready 2) (.ready 2) with
    lif := { Lif.reset with mismatch := true, receive := rx, collisions := collisions } }

/-- The same state with a dominant run of `n` half bits in progress. -/
def withRun (s : State) (n : Nat) : State := s.setLif { s.lif with lineDominant := true, runLength := n }

/-- A transaction that awaits its command. -/
def inPort (s : State) : State := s.setLpt { Lpt.reset with scs := .low, observed := true }

/-- Twelve entries, none in flight. -/
def fullQueue : List Entry :=
  [.advance .none (.rank 0), .rankTimeout 0, .rankTimeout 1, .rankTimeout 2, .rankTimeout 3, .memberSilent 7,
   .memberSilent 8, .memberSilent 9, .query 5 .status ⟨0, 1⟩, .hold .hold, .ready 2, .announce]

theorem hears (e : Epoch) (b : Body) (h : frameValid ⟨5, e, b⟩ = true) : HearsOther member ⟨5, e, b⟩ :=
  ⟨rfl, ⟨rfl, rfl⟩, show (5 : StationId) ≠ 3 from by decide, h⟩

theorem hearsOwn (b : Body) (x : Entry) (hk : x.key = bodyKey b) (h : frameValid ⟨3, 1, b⟩ = true) :
    HearsOwn (sending b x) ⟨3, 1, b⟩ :=
  ⟨rfl, ⟨⟨7, rfl⟩, rfl⟩, congrArg some hk, rfl, h⟩

theorem awaits (c : StationState) (h : c ≠ .start) : AwaitsCommand (inPort (inState c)) := ⟨h, ⟨rfl, rfl⟩, rfl⟩

/-- The view of the MEMBER is sound. -/
theorem member_sound : ViewSound member := by
  have hr : ∀ i : StationId, (member.record i).Sound := by
    intro i
    constructor <;> revert i <;> decide
  exact ⟨fun _ => ⟨by decide, by decide, by decide, by decide, by decide, by decide⟩, hr, by decide, by decide⟩

/-- Whatever its line, queue, slots and commands, a station with that view is sound. -/
theorem member_view_sound {s : State} (h1 : s.stc = member.stc) (h2 : s.dvu = member.dvu) (h3 : s.bsu = member.bsu)
    (h4 : s.clg = member.clg) : ViewSound s := by
  obtain ⟨⟩ := s
  cases h1; cases h2; cases h3; cases h4
  have h := member_sound
  exact ⟨fun hm => ⟨(h.own hm).present, (h.own hm).rank, (h.own hm).board, (h.own hm).budget, (h.own hm).logPending,
    (h.own hm).silence⟩, h.records, h.holders, h.gather⟩

/-! ### Well-formedness -/

/-- R139: 0x10 names GET-STATUS. -/
theorem test_unknown_of_a_known_code_is_ill_formed : WellFormed (.unknownCommand 0x10#8) = false := by decide

/-- R134: a cause that does not travel. -/
theorem test_fault_of_emrg_is_ill_formed : WellFormed (.faultArrival 5 1 ⟨.emrg, .domain, 0, 0⟩) = false := by decide

/-- R134: gather set with a front other than NONE; a front below base − 1; a budget of 3 without EXCLUDED. -/
theorem test_inconsistent_announces_are_ill_formed :
    WellFormed (.announceArrival 5 1 ⟨0, .held, 0, .rank 0, 0, true, false, false⟩) = false ∧
    WellFormed (.announceArrival 5 1 ⟨0, .held, 0, .none, 1, false, false, false⟩) = false ∧
    WellFormed (.announceArrival 5 1 ⟨0, .held, 3, .none, 0, false, false, false⟩) = false := by decide

theorem test_well_formed_commands : WellFormed (.unknownCommand 0x12#8) = true ∧
    WellFormed (.faultArrival 5 1 ⟨.start, .domain, 0, 0⟩) = true ∧ WellFormed .kick = true ∧
    WellFormed (.announceArrival 5 1 ⟨0, .excluded, 3, .none, 0, true, false, false⟩) = true := by decide

/-! ### Words of the manual -/

/-- 7.9: the check character of the READY 0x85, 0x0E, 0x01 is 0x31. -/
theorem test_ready_example : encodeFrame ⟨5, 14, .ready 1⟩ = [0x85#8, 0x0E#8, 0x01#8, 0x31#8] := by decide +kernel

theorem test_crc_steps : crc8 [0x85#8] = 0x61#8 ∧ crc8 [0x85#8, 0x0E#8] = 0x0A#8 ∧
    crc8 [0x85#8, 0x0E#8, 0x01#8] = 0x31#8 := by decide +kernel

theorem test_ready_example_received :
    receiveFrame [0x85#8, 0x0E#8, 0x01#8, 0x31#8] = .ok ⟨5, 14, .ready 1⟩ ∧
    receiveFrame [0x85#8, 0x0E#8, 0x01#8, 0x30#8] = .error .badCrc := by
  constructor <;> decide +kernel

/-- 7.9: FAULT(WDOG, RANK) of rank 2 rewinding to 2; LAPSE(MEMBER-SILENT, 9); ADVANCE(NONE, 3); a front of 9. -/
theorem test_words_written_out :
    bodyOfChars 0 [0x28#8, 0x42#8] = some (.fault ⟨.wdog, .rank, 2, 2⟩) ∧
    bodyOfChars 1 [0x89#8] = some (.memberSilent 9) ∧ bodyOfChars 2 [0xF3#8] = some (.advance .none (.rank 3)) ∧
    bodyOfChars 2 [0xF9#8] = none ∧ bodyOfChars 3 [0x01#8] = some (.hold .resume) ∧
    bodyOfChars 5 [0x07#8, 0x25#8] = some (.query 7 .logSummary ⟨1, 1⟩) := by decide

/-- R169, 7.9: the STATUS data of a READY board with budget 0 at a MEMBER. -/
theorem test_status_item : (({ member with bsu := { Bsu.reset with board := .ready } }).answer .status).2.1 = 0x42#8 := by
  decide

/-! ### One step of a command -/

theorem test_ready_board_reports : ∃ t, exec .brdyRise (withBsu runBoard) = .next t ∧ t.bsu.board = .ready ∧
    t.txq.entries = [.ready 2] ∧ (t.record 3).board = .ready ∧ (t.record 3).ready = false := ⟨_, rfl, by decide⟩

theorem test_watchdog_contains : ∃ t, exec .watchdogExpiry (withBsu runBoard) = .next t ∧ t.bsu.board = .recover ∧
    t.bsu.budget = 1 ∧ t.txq.entries = [.fault ⟨.wdog, .rank, 2, 2⟩] ∧ t.clg.records.length = 1 := ⟨_, rfl, by decide⟩

theorem test_third_fault_excludes : ∃ t, exec .watchdogExpiry (withBsu { runBoard with budget := 2 }) = .next t ∧
    t.bsu.board = .excluded ∧ t.clg.records.map (·.cause) = [.wdog, .excluded] := ⟨_, rfl, by decide⟩

theorem test_advance_releases : ∃ t,
    exec (.advanceArrival 5 1 (.rank 1) (.rank 2)) (withBsu { runBoard with board := .held, watchdog := .disarmed }) =
      .next t ∧ t.dvu.front = .rank 2 ∧ t.bsu.board = .runup ∧ t.bsu.watchdog = .first 2000 := ⟨_, rfl, by decide⟩

theorem test_fault_rewinds : ∃ t, exec (.faultArrival 5 1 ⟨.wdog, .rank, 1, 1⟩) (withBsu runBoard) = .next t ∧
    t.dvu.epoch = 2 ∧ t.dvu.base = 1 ∧ t.dvu.front = .rank 0 ∧ t.bsu.board = .held ∧ (t.record 5).board = .held ∧
    t.clg.records.map (·.origin) = [some 5] := ⟨_, rfl, by decide⟩

theorem test_own_announce_removes_its_entry : ∃ t,
    exec (.announceArrival 3 1 ⟨2, .held, 0, .rank 1, 0, false, false, false⟩)
      (sending (.announce ⟨2, .held, 0, .rank 1, 0, false, false, false⟩) .announce) = .next t ∧
    t.txq.entries = [] ∧ t.txq.inFlight = none ∧ t.lif.drive = .none := ⟨_, rfl, by decide⟩

theorem test_attempt_starts_at_the_gap : ∃ t,
    exec .attemptStart ((withLif .member { Lif.reset with idle := 24 }).request .announce) = .next t ∧
    t.txq.inFlight = some .announce ∧ t.lif.drive.isFrame = true := ⟨_, rfl, by decide⟩

/-- R146, R161, 6.10: a drive fault in the first start bit leaves the entry queued and the line recessive: nothing begins at
13 T of that gap. -/
theorem test_a_failed_attempt_waits_for_the_next_gap : ∃ t u, exec .driveFault { sending (.ready 2) (.ready 2) with
      lif := { Lif.reset with drive := .frame ⟨3, 1, .ready 2⟩ 1, idle := 26, gapTaken := true } } = .next t ∧
    t.txq.entries = [.ready 2] ∧ t.lif.driveFaults = 1 ∧ t.due = [] ∧ exec .attemptStart t = .next u ∧ u = t :=
  ⟨_, _, rfl, by decide, by decide, by decide, rfl, by decide⟩

/-- R143, R146: the end of a dominant level, of a frame, and the discard of one each open a gap. -/
theorem test_the_idle_count_opens_a_gap : (∃ t, exec .dominantRunEnd (withLif .member
      { Lif.reset with lineDominant := true, runLength := 4, gapTaken := true }) = .next t ∧ t.lif.gapTaken = false) ∧
    (∃ t, exec (.readyArrival 5 1 1) (withLif .member { Lif.reset with gapTaken := true }) = .next t ∧
      t.lif.gapTaken = false) ∧
    ∃ t, exec .truncation (withLif .member
      { Lif.reset with receive := .inFrame Reception.opened, gapTaken := true }) = .next t ∧ t.lif.gapTaken = false :=
  ⟨⟨_, rfl, by decide⟩, ⟨_, rfl, by decide⟩, ⟨_, rfl, by decide⟩⟩

theorem test_query_to_self_is_answered_at_once : ∃ t, exec (.queryReq 3 1) (inPort member) = .next t ∧
    t.lpt.response = [0x00#8, 0x01#8] ∧ (t.qru.slots[0]).state = .done ∧ t.alertN = .low := ⟨_, rfl, by decide⟩

theorem test_second_collision_blocks : ∃ t, exec .collisionAfterArbitration
    { sending (.ready 2) (.ready 2) with
      lif := { Lif.reset with mismatch := true, collisions := 1 } } = .next t ∧
    t.stc.station = .blocked ∧ t.txq.entries = [] := ⟨_, rfl, by decide⟩

/-- R138, 7.9: GET-STATUS is 0x10, GET-MEMBER of 9 is 0x11, 0x09, QUERY-REQ to 3 for STATUS is 0x50, 0x03, 0x01; 0x50
alone is no command yet, and 0xF0 names none. -/
theorem test_words_of_the_port_commands : decodeTableWord 8 0x10 = some .getStatus ∧
    decodeTableWord 16 0x0911 = some (.getMember 9) ∧ decodeTableWord 24 0x010350 = some (.queryReq 3 1) ∧
    decodeTableWord 8 0x50 = none ∧ decodeTableWord 8 0xF0 = some (.unknownCommand 0xF0#8) := by decide

theorem test_a_fetched_word_runs : step ((inPort member).withFetchWord 8 0x10) = exec .getStatus (inPort member) := rfl

/-- R138: bytes shifted in one by one; the command is taken with its last byte. -/
theorem test_bytes_shifted_in : ([0x50#8, 3#8].foldl State.shiftIn (inPort member)).pending = [] ∧
    ([0x50#8, 3#8, 1#8].foldl State.shiftIn (inPort member)).pending = [.queryReq 3 1] ∧
    (member.shiftIn 0x10#8).pending = [] := by decide

/-- R187, R188: LOG-TAKE, four bytes, then six more and the rise: the record goes. -/
theorem test_response_shifted_out_in_portions : ∃ t u v, exec .logTake (inPort member.recordEmergency) = .next t ∧
    (t.shiftOut 4).lpt.shifted = 4 ∧ (t.shiftOut 4).sdo = t.lpt.response[4]? ∧ (t.shiftOut 11).sdo = some 0xFF#8 ∧
    exec (.transactionEnd 6) (t.shiftOut 4) = .next u ∧ u.clg.records = [] ∧
    exec (.transactionEnd 5) (t.shiftOut 4) = .next v ∧ v.clg.records.length = 1 :=
  ⟨_, _, _, rfl, by decide, by decide, by decide, rfl, by decide, rfl, by decide⟩

/-- R147: a mismatch in a run of 9 T is a collision as the run ends. -/
theorem test_a_run_that_ends_reports_its_collision : ∃ t, exec .dominantRunEnd { mismatch .outside 0 with
      lif := { (mismatch .outside 0).lif with lineDominant := true, runLength := 18 } } = .next t ∧
    t.lif.drive = .none ∧ t.lif.collisions = 1 ∧ t.txq.inFlight = none := ⟨_, rfl, by decide⟩

/-- R147, R153: a collision comes before the break that EMRG_N starts. -/
theorem test_emergency_after_a_collision : ∃ t, exec .emrgNFall (mismatch .outside 0) = .next t ∧
    t.lif.drive = .brk 0 ∧ t.lif.collisions = 1 := ⟨_, rfl, by decide⟩

/-- R147, R153: EMRG_N in the run of a waiting mismatch cuts nothing; a drive fault ends the break, and a run that then ends
at 9 T or less is the collision. -/
theorem test_a_mismatch_outlives_a_break : ∃ t u v, exec .emrgNFall (withRun (mismatch .outside 0) 6) = .next t ∧
    t.lif.drive = .brk 0 ∧ t.txq.inFlight = some .ready ∧ exec .driveFault t = .next u ∧ u.lif.drive = .none ∧
    exec .dominantRunEnd u = .next v ∧ v.lif.collisions = 1 ∧ v.txq.inFlight = none ∧ v.txq.entries = [.ready 2] :=
  ⟨_, _, _, rfl, by decide, by decide, rfl, by decide, rfl, by decide⟩

/-- R147, R153: the run passes 9 T instead: the attempt is cut, and the break goes on. -/
theorem test_a_break_past_nine_cuts_a_waiting_mismatch : ∃ t u,
    exec .emrgNFall (withRun (mismatch (.inFrame Reception.opened) 0) 6) = .next t ∧ exec .longRunStart t = .next u ∧
    u.lif.drive = .brk 0 ∧ u.lif.mismatch = false ∧ u.lif.collisions = 0 ∧ u.lif.rxErrors = 0 ∧ u.txq.inFlight = none :=
  ⟨_, _, rfl, rfl, by decide⟩

/-- R153, R155: a stuck line isolates a station that drives a break; the break goes on, and ends after its 32 T. -/
theorem test_a_break_goes_on_in_isolated : ∃ t u, exec .stuckLine (withLif .member { Lif.reset with
      lineDominant := true, runLength := 8192, runClass := .long, drive := .brk 40 }) = .next t ∧
    t.stc.station = .isolated ∧ t.lif.drive = .brk 40 ∧ t.lineDriven = true ∧ exec .breakDriveEnd t = .next u ∧
    u.lif.drive = .none := ⟨_, _, rfl, by decide, by decide, by decide, rfl, by decide⟩

/-- R153, R148: a duplicate identity blocks a station that drives a break; the break goes on. -/
theorem test_a_break_goes_on_in_blocked : ∃ t, exec (.readyArrival 3 1 2) (withLif .member
      { Lif.reset with drive := .brk 0 }) = .next t ∧ t.stc.station = .blocked ∧ t.lif.drive = .brk 0 :=
  ⟨_, rfl, by decide⟩

/-- R153: at 32 T the break is over, and EMRG_N starts another. -/
theorem test_emergency_at_the_end_of_a_break : ∃ t, exec .emrgNFall (withLif .listen
    { Lif.reset with drive := .brk 64 }) = .next t ∧ t.lif.drive = .brk 0 ∧ t.clg.records.length = 1 := ⟨_, rfl, by decide⟩

/-- R147, R148: a frame with the own ID while a collision is still to be reported. -/
theorem test_own_identity_after_a_mismatch : ∃ t, exec (.readyArrival 3 9 2) (mismatch (.inFrame Reception.opened) 0) =
    .next t ∧ t.stc.station = .blocked ∧ t.lif.receive = .outside := ⟨_, rfl, by decide⟩

/-- R150, R152: 9.5 T of a 0x00 character held dominant: the attempt is cut at 9 T, and no error is counted. -/
theorem test_no_framing_error_of_a_cut_sender : ∃ t, exec (.receptionError .framing) (withLif .member
    { Lif.reset with lineDominant := true, runLength := 19, drive := .frame ⟨3, 1, .ready 2⟩ 39,
                     receive := .inFrame ⟨[0x85#8], some 19, 0, 0, false⟩ }) = .next t ∧
    t.lif.drive = .none ∧ t.lif.receive = .outside ∧ t.lif.rxErrors = 0 := ⟨_, rfl, by decide⟩

/-- R145, R150, R152: at 9.5 T of a first character 0x00 held dominant arbitration is lost too late: the attempt has been
cut at 9 T, and the framing error counts nothing. -/
theorem test_no_lost_arbitration_of_a_cut_sender : ∃ t u, exec .lostArbitration (withLif .member
    { Lif.reset with lineDominant := true, runLength := 19, drive := .frame ⟨0, 1, .ready 2⟩ 19,
                     receive := .inFrame ⟨[], some 19, 0, 0, false⟩ }) = .next t ∧
    t.lif.drive = .none ∧ t.lif.receive = .outside ∧ exec (.receptionError .framing) t = .next u ∧
    u.lif.rxErrors = 0 := ⟨_, _, rfl, by decide, by decide, rfl, by decide⟩

/-- R150: a glitch that begins 1.5 T after a stop bit's middle begins no character: the truncation comes at 2 T. -/
theorem test_a_glitch_does_not_stop_a_truncation :
    (Reception.tick ⟨[0xA5#8], some 0, 0, 3, false⟩ false).2 = some .truncation ∧
    (Reception.tick ⟨[0xA5#8], some 0, 0, 2, false⟩ false).2 = none ∧
    (Reception.tick ⟨[0xA5#8], some 0, 0, 3, false⟩ true).2 = none := by decide

/-- R109: pins 10110 of ID read 22 and PROF pins 01, highest first, P1; LRATE 2 names 200 kbit/s. -/
theorem test_straps_are_binary_numbers :
    readStraps ⟨#v[.low, .high, .high, .low, .high], #v[.high, .low, .high], #v[.high, .low], #v[.low, .high],
      #v[.high, .high], .low, .high, .low⟩ = ⟨22, 5, .p1, .k200, 3, .low, .high, .low⟩ := by decide

/-- R147, R150: after a mismatch the station is a receiver, and a framing error counts. -/
theorem test_framing_error_after_a_mismatch_counts : ∃ t, exec (.receptionError .framing) (withLif .member
    { Lif.reset with mismatch := true, receive := .inFrame Reception.opened }) = .next t ∧
    t.lif.receive = .outside ∧ t.lif.rxErrors = 1 := ⟨_, rfl, by decide⟩

/-- R152: a run that ends past 9 T before it has been told long still discards the frame in reception. -/
theorem test_a_long_run_ending_untold_discards : ∃ t, exec .dominantRunEnd (withLif .listen
    { Lif.reset with lineDominant := true, runLength := 19, receive := .inFrame Reception.opened }) = .next t ∧
    t.lif.receive = .outside ∧ t.lif.rxErrors = 1 ∧ t.lif.lineDominant = false := ⟨_, rfl, by decide⟩

/-- R155: a run that ends at 4096 T before the stuck line has been told still isolates. -/
theorem test_a_stuck_line_ending_untold_isolates : ∃ t, exec .dominantRunEnd (withLif .member
    { Lif.reset with lineDominant := true, runLength := 8192 }) = .next t ∧ t.stc.station = .isolated ∧
    t.stc.quiet = .running 50 ∧ t.lif.lineDominant = false := ⟨_, rfl, by decide⟩

/-- R138, R188: SDO in a transaction that a reset has cut. -/
theorem test_sdo_of_a_cut_transaction : ∃ t, exec .stationReset (inPort member) = .next t ∧ t.sdo = some 0xFF#8 ∧
    (t.setStc member.stc).sdo = none := ⟨_, rfl, by decide⟩

/-! ### Witnesses of the statements' hypotheses -/

theorem emptyQueue_sound : (⟨[], none, none⟩ : Txq).Sound := ⟨by decide, by decide, fun _ h => by cases h⟩

theorem fullQueue_sound : (⟨fullQueue, none, none⟩ : Txq).Sound := ⟨by decide, by decide, fun _ h => by cases h⟩

/-- Timers at 0, all at once; a run at 9.5 T and at 4096 T; a break at 32 T; a mismatch whose run has ended; an entry
offered at 12 T of idle line. -/
theorem witness_IdleStepQueuesWhatIsDue :
    (withDvu { member.dvu with announce := .running 0, settle := .running 0 }).pending = [] ∧
    (withDvu { member.dvu with
      announce := .running 0, gatherTimer := .running 0, settle := .running 0, holdLimit := .running 0 }).due =
      [.announceTimerExpiry, .gatherTimerExpiry, .rankSettleExpiry, .holdLimitExpiry] ∧
    (withBsu { runBoard with
      holdDown := .running 0, recovery := .running 0, watchdog := .first 0, stable := .running 0 }).due =
      [.holdDownExpiry, .recoveryExpiry, .watchdogExpiry, .stableIntervalExpiry] ∧
    ((inState .isolated).setStc { (inState .isolated).stc with listenIn := .running 0, quiet := .running 0 }).due =
      [.listenInExpiry, .quietTimerExpiry] ∧
    (member.updateSlot 3 (fun sl => { sl.allocate 5 .status with timer := .running 0 })).due = [.queryTimerExpiry 3] ∧
    (withLif .member { Lif.reset with lineDominant := true, runLength := 19 }).due = [.longRunStart] ∧
    (withLif .member { Lif.reset with lineDominant := true, runLength := 18 }).due = [] ∧
    (withLif .member { Lif.reset with lineDominant := true, runLength := 8192, runClass := .long }).due = [.stuckLine] ∧
    (withLif .blocked { Lif.reset with drive := .brk 64 }).due = [.breakDriveEnd] ∧
    (withLif .blocked { Lif.reset with drive := .brk 63 }).due = [] ∧
    (withLif .member { Lif.reset with mismatch := true }).due = [.collisionAfterArbitration] ∧
    ((withLif .member { Lif.reset with idle := 24 }).request .announce).due = [.attemptStart] := by decide

/-- A character's start bit at its middle, its last data bit, its stop bit; the last wait before a truncation. -/
def receptions : List Reception :=
  [⟨[], some 0, 0, 0, false⟩, ⟨[], some 16, 0, 0, false⟩, ⟨[], some 18, 0, 0, false⟩, ⟨[0xA5#8], none, 0, 3, false⟩]

/-- The last half bit time of a millisecond and one before it, with running timers, without a holder and with one; every
drive at a bit's middle, every stage of a reception, on either level; START with a reset applied and with none. -/
theorem witness_IdleStepPassesTime :
    (member.setStc { member.stc with msPhase := 99 }).due = [] ∧ (99 + 1 = halvesPerMs .k50) ∧ 98 + 1 < halvesPerMs .k50 ∧
    (∀ r ∈ receptions, ∀ b : Bool,
      (withLif .listen { Lif.reset with lineDominant := b, receive := .inFrame r }).due = []) ∧
    (∀ b : Bool, ∀ n ∈ [0, 18, 20, 79], ∀ m : Bool, (b = true ∨ m = false) →
      (withLif .member { Lif.reset with lineDominant := b, drive := .frame ⟨3, 1, .ready 2⟩ n, mismatch := m }).due = []) ∧
    (withLif .listen { Lif.reset with drive := .brk 62 }).due = [] ∧
    (lineBits ⟨3, 1, .ready 2⟩)[0]? = some true ∧ (lineBits ⟨3, 1, .ready 2⟩)[9]? = some false ∧
    (lineBits ⟨3, 1, .ready 2⟩)[19]? = some false ∧ (lineBits ⟨3, 1, .ready 2⟩)[40]? = none ∧
    member.dvu.announce = .running (49 + 1) ∧ member.dvu.settle = .running (999 + 1) ∧
    (∀ i : StationId, member.dvu.holdSet[i] = false) ∧
    (member.addHold 5).due = [] ∧ (∃ i : StationId, (member.addHold 5).dvu.holdSet[i] = true) ∧
    State.reset.stc.station = .start ∧ State.reset.stc.porApplied = true ∧
    (inState .start).stc.porApplied = false ∧ (inState .start).stc.srstApplied = false :=
  ⟨by decide, rfl, by decide, by decide, by decide, by decide, by decide +kernel, by decide +kernel, by decide +kernel,
    by decide +kernel, rfl, rfl, by decide, by decide, ⟨5, by decide⟩, rfl, rfl, rfl, rfl⟩

/-- A start that owes POWERON, and a station outside START. -/
theorem witness_ResetsReturnTheStation : State.reset.stc.station = .start ∧ State.reset.stc.startKind = .powerOn ∧
    member.stc.station ≠ .start := by decide

/-- Either reset alone, both, and a running delay. -/
theorem witness_StartLastsForTheStartUpDelay : State.reset.stc.station = .start ∧ State.reset.stc.porApplied = true ∧
    State.reset.stc.srstApplied = false ∧
    ((inState .start).setStc { Stc.reset with porApplied := false, srstApplied := true }).stc.srstApplied = true ∧
    ((inState .start).setStc { Stc.reset with srstApplied := true }).stc.porApplied = true ∧
    ((inState .start).setStc { Stc.reset with startUpDelay := .running 0 }).stc.startUpDelay.isRunning = true ∧
    (∃ p : SampledPins, readStraps p.straps = straps) :=
  ⟨rfl, rfl, rfl, rfl, rfl, rfl, ⟨⟨#v[.high, .high, .low, .low, .low], #v[.low, .high, .low], #v[.low, .low],
    #v[.low, .low], #v[.high, .low], .low, .low, .low⟩, .high, 1201, false⟩, by decide⟩

theorem witness_FoundingKeepsTheViewAndRequestsStart : ∃ s : State, s.stc.station = .listen ∧
    s.stc.listenIn.isRunning = true ∧ s.txq.Sound ∧ s.txq.inFlight = none ∧ s.txq.entries.length ≤ 10 ∧
    s.dvu.holdSet[s.self] = true :=
  ⟨((inState .listen).setStc { (inState .listen).stc with listenIn := .running 0 }).addHold 3, rfl, rfl,
    emptyQueue_sound, rfl, by decide, by decide⟩

/-- The same station with no FAULT pending, and with one that START replaces. -/
theorem witness_Founding_faults : member.txq.holds .fault = false ∧
    (⟨[.fault ⟨.late, .rank, 4, 1⟩], none, none⟩ : Txq).Sound ∧
    Entry.fault ⟨.late, .rank, 4, 1⟩ ∈ (⟨[.fault ⟨.late, .rank, 4, 1⟩], none, none⟩ : Txq).entries :=
  ⟨rfl, ⟨by decide, by decide, fun _ h => by cases h⟩, by decide⟩

/-- The ends of an attempt: with nothing remembered, and with each item that may be. -/
theorem witness_AttemptFailed_items : ∀ q ∈ [(⟨[.ready 2], some .ready, none⟩ : Txq),
      ⟨[.ready 2], some .ready, some .cancellation⟩, ⟨[.hold .hold], some .hold, some (.hold .resume)⟩,
      ⟨[.fault ⟨.late, .rank, 2, 1⟩], some .fault, some (.fault ⟨.soft, .domain, 2, 0⟩)⟩],
    q.Sound ∧ q.inFlight ≠ none := by
  simp only [List.mem_cons, List.not_mem_nil, or_false, forall_eq_or_imp, forall_eq]
  refine ⟨⟨⟨by decide, by decide, ?_⟩, by decide⟩, ⟨⟨by decide, by decide, ?_⟩, by decide⟩,
    ⟨⟨by decide, by decide, ?_⟩, by decide⟩, ⟨⟨by decide, by decide, ?_⟩, by decide⟩⟩ <;>
  intro k h <;> cases h <;> decide

theorem witness_QuietLineLeadsToListen :
    ((inState .isolated).setStc { (inState .isolated).stc with quiet := .running 0 }).stc.station = .isolated ∧
    ((inState .isolated).setStc { (inState .isolated).stc with quiet := .running 0 }).stc.quiet.isRunning = true := by
  decide

/-- In each station state, both policies. -/
theorem witness_StuckLineIsolates : ∀ c : StationState, c ≠ .start →
    (withLif c { Lif.reset with lineDominant := true, runLength := 8192, runClass := .long }).stc.station = c ∧
    (withLif c { Lif.reset with lineDominant := true }).lif.lineDominant = true ∧
    (withLif c { Lif.reset with lineDominant := true }).lif.runClass ≠ .stuck ∧
    (inState c).stc.straps.isoPol = .low ∧
    ((inState c).setStc { (inState c).stc with straps := { straps with isoPol := .high } }).stc.straps.isoPol = .high := by
  intro c; cases c <;> decide

/-- A collision still to be reported on a sound line, which a valid frame meets, with another ID and with the own one. -/
theorem witness_DuplicateIdentity_afterAMismatch : (mismatch .outside 0).stc.station = .member ∧
    LineSound (mismatch .outside 0) ∧ (mismatch .outside 0).lif.lineDominant = false ∧
    (mismatch .outside 0).lif.mismatch = true ∧
    (∀ g n, (mismatch .outside 0).lif.drive ≠ .frame g n) ∧
    (Instr.readyArrival 5 9 2).frame? = some ⟨5, 9, .ready 2⟩ ∧ frameValid ⟨5, 9, .ready 2⟩ = true :=
  ⟨rfl, ⟨by decide, by decide, by decide, by decide, by decide⟩, rfl, rfl, (fun _ _ h => by cases h), rfl, rfl⟩

/-- A first and a second collision, at a run of 9 T; a frame with the own ID that the station was not sending. -/
theorem witness_DuplicateIdentityBlocks : ∃ l m : Lif, l.mismatch = true ∧ l.runClass = .ordinary ∧
    l.runLength = Config.longHalves ∧ l.collisions = 0 ∧ m = { l with collisions := 1 } ∧ m.collisions ≠ 0 ∧
    (withLif .member l).txq.remembered = none ∧
    (Instr.readyArrival 3 9 2).frame? = some ⟨3, 9, .ready 2⟩ ∧ frameValid ⟨3, 9, .ready 2⟩ = true ∧
    member.lif.drive.isFrame = false ∧ (3 : StationId) = member.self :=
  ⟨{ Lif.reset with mismatch := true, runLength := 18 }, _, rfl, rfl, rfl, rfl, rfl, by decide,
    rfl, rfl, rfl, rfl, rfl⟩

/-- Station 5 at silence age 3, alone silent, and eight entries at most. -/
theorem witness_AnnounceExpiryAgesAndLapses : ∃ s : State, s.stc.station = .member ∧
    s.dvu.announce.isRunning = true ∧ s.txq.entries.length ≤ 8 ∧ (5 : StationId) ≠ s.self ∧
    (s.record 5).present = true ∧ (s.record 5).silence.val = 3 ∧
    ∀ j : StationId, j ≠ s.self → (s.record j).present = true → 3 ≤ (s.record j).silence.val → j = 5 :=
  ⟨member.updateRecord 5 (fun r => { r with silence := 3 }), rfl, rfl, by decide, by decide, by decide, by decide,
    by decide⟩

/-- Two members silent at once, the hold limit expired, the advance condition met: five requests join a queue of 7. -/
theorem witness_AnnounceExpiry_several : ∃ s : State, s.stc.station = .member ∧ s.dvu.announce.isRunning = true ∧
    (s.record 5).silence.val = 3 ∧ (s.record 6).silence.val = 4 ∧ s.txq.holds .announce = false ∧
    s.txq.holds (.memberSilent 5) = false ∧ s.dvu.holdLimit = .expired ∧ s.txq.holds .hold = false ∧
    s.advanceCondition = true ∧ s.txq.entries.length + 5 ≤ 12 :=
  ⟨{ (withDvu { member.dvu with
        front := .rank 0, holdLimit := .expired
        records := (member.dvu.records.set 5 { present 1 .runup with silence := 3 }).set 6
          { present 1 .runup with silence := 4 } }) with
      txq := ⟨[.rankTimeout 0, .rankTimeout 1, .rankTimeout 2, .rankTimeout 3, .memberSilent 7, .memberSilent 8,
        .memberSilent 9], none, none⟩ },
    rfl, rfl, by decide, by decide, by decide, by decide, rfl, by decide, by decide, by decide⟩

theorem witness_GatherAndHoldLimitExpiries :
    (withDvu { member.dvu with gatherTimer := .running 0, front := .none }).dvu.gatherTimer.isRunning = true ∧
    (withDvu { member.dvu with gatherTimer := .running 0, front := .none }).dvu.front = .none ∧
    member.txq.holds .advance = false ∧ member.txq.entries.length < 12 ∧ member.txq.inFlight ≠ some .hold ∧
    (∀ i : StationId, member.dvu.holdSet[i] = false) ∧ (member.addHold 5).dvu.holdSet[(5 : StationId)] = true ∧
    (withDvu { member.dvu with holdLimit := .running 0 }).dvu.holdLimit.isRunning = true := by decide

/-- A blocking record under either LATEACT; no blocking record. -/
theorem witness_SettleExpiryActsOnABlockingRecord : member.dvu.settle.isRunning = true ∧
    (∀ i : StationId, member.dvu.holdSet[i] = false) ∧ member.dvu.front = .rank 1 ∧
    member.dvu.lowestBlocking = some 1 ∧ member.stc.straps.lateAct = .low ∧
    (member.setStc { member.stc with straps := { straps with lateAct := .high } }).stc.straps.lateAct = .high ∧
    (withDvu { member.dvu with front := .rank 0 }).dvu.someBlocking = false := by decide

/-- A hold-down at its end; a recovery at its end. -/
theorem witness_HoldDownAndRecoveryEndInARelease :
    (withBsu { Bsu.reset with holdDown := .running 0 }).bsu.holdDown.isRunning = true ∧
    (withBsu { Bsu.reset with board := .recover, recovery := .running 0 }).bsu.board = .recover ∧
    (withBsu { Bsu.reset with board := .recover, recovery := .running 0 }).bsu.recovery.isRunning = true := by decide

/-- Budgets 0 and 2, under every clause. -/
theorem witness_RunningBoardFaultsAreContained : (withBsu runBoard).txq.Sound ∧ boardRunning runBoard.board = true ∧
    runBoard.budget ≠ 3 ∧ ({ runBoard with budget := 2 } : Bsu).budget ≠ 3 ∧ runBoard.watchdog.isArmed = true ∧
    runBoard.fltLatch = .high ∧ runBoard.band = .normal ∧ (withBsu runBoard).stc.station ≠ .start :=
  ⟨emptyQueue_sound, rfl, by decide, by decide, rfl, rfl, rfl, by decide⟩

/-- The queues that a detection may meet: no FAULT, one that waits, one in flight with nothing remembered; a READY that
waits and one in flight. -/
theorem witness_RunningBoardFaults_queues : ∀ q ∈ [(⟨[.ready 2, .announce], none, none⟩ : Txq),
      ⟨[.fault ⟨.late, .rank, 2, 1⟩, .hold .hold], none, none⟩, ⟨[.fault ⟨.late, .rank, 2, 1⟩], some .fault, none⟩,
      ⟨[.ready 2], some .ready, none⟩],
    q.Sound ∧ q.entries.length ≤ 10 := by
  simp only [List.mem_cons, List.not_mem_nil, or_false, forall_eq_or_imp, forall_eq]
  refine ⟨⟨⟨by decide, by decide, ?_⟩, by decide⟩, ⟨⟨by decide, by decide, ?_⟩, by decide⟩,
    ⟨⟨by decide, by decide, ?_⟩, by decide⟩, ⟨⟨by decide, by decide, ?_⟩, by decide⟩⟩ <;>
  intro k h <;> cases h <;> decide

theorem witness_InputsMoveLatchAndBand : boardRunning Bsu.reset.board = false ∧ Bsu.reset.watchdog = .disarmed ∧
    Bsu.reset.fltLatch = .high ∧ Bsu.reset.band = .low ∧ ({ Bsu.reset with band := .normal } : Bsu).band = .normal ∧
    ({ Bsu.reset with fltLatch := .low } : Bsu).fltLatch = .low ∧ straps.fltMode = .low ∧
    ({ straps with fltMode := .high } : Straps).fltMode = .high ∧ member.stc.station ≠ .start := by decide

/-- RUNUP with room in the queue; READY with a READY that waits and with one in flight. -/
theorem witness_BrdyEdgesMoveTheBoard : runBoard.board = .runup ∧ (withBsu runBoard).txq.holds .ready = false ∧
    (withBsu runBoard).txq.entries.length ≤ 10 ∧ ({ runBoard with board := .ready } : Bsu).board = .ready ∧
    (⟨[.ready 2], none, none⟩ : Txq).inFlight ≠ some .ready ∧
    (⟨[.ready 2], some .ready, none⟩ : Txq).inFlight = some .ready ∧ Bsu.reset.board ≠ .runup ∧
    Bsu.reset.board ≠ .ready := by decide

theorem witness_KickAndStableInterval : runBoard.watchdog ≠ .disarmed ∧ Bsu.reset.watchdog = .disarmed ∧
    ({ runBoard with board := .ready, stable := .running 0 } : Bsu).stable.isRunning = true := by decide

/-- START, ISOLATED, a break being driven up to half a bit before its end, a MEMBER that sends and one that does not, with
nothing still to be told. -/
theorem witness_EmergencyIsRecordedAndBroken : State.reset.stc.station = .start ∧
    (inState .isolated).stc.station = .isolated ∧
    (withLif .blocked { Lif.reset with drive := .brk 63 }).lif.drive = .brk 63 ∧
    LimitsTold (withLif .blocked { Lif.reset with drive := .brk 63 }).lif ∧
    (∀ n, (inState .listen).lif.drive ≠ .brk n) ∧ (∀ n, (sending (.ready 2) (.ready 2)).lif.drive ≠ .brk n) ∧
    LimitsTold (sending (.ready 2) (.ready 2)).lif ∧ CollisionTold (sending (.ready 2) (.ready 2)).lif :=
  ⟨rfl, rfl, rfl, (fun h => by cases h), fun n h => Drive.noConfusion (show Drive.none = Drive.brk n from h),
    (fun _ h => by cases h), (fun h => by cases h), fun _ => rfl⟩

/-- What may still have to be told: a run at 9.5 T and at 4096 T, a collision, a break at 32 T. -/
theorem witness_Emergency_untold : 18 < 19 ∧ 19 < 8192 ∧
    (withLif .member { Lif.reset with lineDominant := true, runLength := 19 }).lif.runClass = .ordinary ∧
    (withLif .member { Lif.reset with lineDominant := true, runLength := 8192, runClass := .long }).lif.runClass ≠ .stuck ∧
    LineSound (mismatch .outside 0) ∧ (mismatch .outside 0).lif.lineDominant = false ∧
    (mismatch .outside 0).lif.mismatch = true ∧
    (withLif .blocked { Lif.reset with drive := .brk 64 }).lif.drive = .brk 64 ∧ 64 ≤ 64 :=
  ⟨by decide, by decide, rfl, by decide, ⟨by decide, by decide, by decide, by decide, by decide⟩, rfl, rfl, rfl, by decide⟩

/-- The boundary at 12 T, in a free gap and in a taken one, and a joined edge. -/
theorem witness_AttemptsSendTheMostUrgentEntry :
    (member.request .announce).offered = some .announce ∧ member.offered = none ∧
    (withLif .member { Lif.reset with idle := 24 }).lif.lineDominant = false ∧ Lif.reset.drive = .none ∧
    Lif.reset.mismatch = false ∧ Lif.reset.gapTaken = false ∧ Lif.reset.joinWindow = false ∧
    (withLif .member { Lif.reset with idle := 26, gapTaken := true }).lif.gapTaken = true ∧
    ({ Lif.reset with joinWindow := true } : Lif).joinWindow = true := by decide

/-- An attempt with nothing remembered, a cancellation, an action, a FAULT. -/
theorem witness_LostAttemptSettlesItsEntry : (sending (.ready 2) (.ready 2)).lif.drive.isFrame = true ∧
    LimitsTold (sending (.ready 2) (.ready 2)).lif ∧ (sending (.ready 2) (.ready 2)).txq.inFlight = some .ready ∧
    (sending (.ready 2) (.ready 2)).txq.remembered = none ∧
    (⟨[.ready 2], some .ready, some .cancellation⟩ : Txq).remembered = some .cancellation ∧
    (⟨[.hold .hold], some .hold, some (.hold .resume)⟩ : Txq).inFlight = some .hold ∧
    (⟨[.fault ⟨.late, .rank, 2, 1⟩], some .fault, some (.fault ⟨.soft, .domain, 2, 0⟩)⟩ : Txq).inFlight = some .fault :=
  ⟨by decide, (fun h => by cases h), by decide, by decide, by decide, by decide, by decide⟩

/-- A waiting mismatch in a dominant run of 3 T, alone and under a break. -/
theorem witness_mismatch_in_a_run : LimitsTold (withRun (mismatch .outside 0) 6).lif ∧
    CollisionTold (withRun (mismatch .outside 0) 6).lif ∧ (withRun (mismatch .outside 0) 6).lif.mismatch = true ∧
    (∀ n, (withRun (mismatch .outside 0) 6).lif.drive ≠ .brk n) ∧
    ({ (withRun (mismatch .outside 0) 6).lif with drive := .brk 3 } : Lif).drive.isFrame = false :=
  ⟨fun _ => ⟨fun h => absurd h (by decide), fun h => absurd h (by decide)⟩, (fun h => by cases h), rfl,
    (fun _ h => by cases h), rfl⟩

/-- A first and a second fault, of an attempt and of a break; a third in LISTEN, MEMBER and BLOCKED. -/
theorem witness_DriveFaultsAreCountedToThree : Lif.reset.drive = .none ∧
    (sending (.ready 2) (.ready 2)).lif.drive ≠ .none ∧ (sending (.ready 2) (.ready 2)).lif.driveFaults.val < 2 ∧
    ({ Lif.reset with drive := .brk 3, driveFaults := 1 } : Lif).driveFaults.val < 2 ∧
    (withLif .listen { Lif.reset with drive := .brk 3, driveFaults := 2 }).lif.drive ≠ .none ∧
    (withLif .blocked { Lif.reset with drive := .brk 3, driveFaults := 2 }).stc.station = .blocked ∧
    (withLif .member { Lif.reset with drive := .brk 3, driveFaults := 2 }).lif.driveFaults = 2 ∧
    ∀ f : Drive, LimitsTold { Lif.reset with drive := f, driveFaults := 2 } :=
  ⟨by decide, by decide, by decide, by decide, by decide, by decide, by decide, fun _ h => by cases h⟩

/-- An edge at 11.5 T and at 11 T, on a quiet line and within a frame; run lengths at every limit. -/
theorem witness_RunsBeginAndAreClassified : Lif.reset.lineDominant = false ∧ Lif.reset.receive = .outside ∧
    Lif.reset.drive.isBreak = false ∧ ({ Lif.reset with idle := 23 } : Lif).idle = 23 ∧
    ({ Lif.reset with idle := 22 } : Lif).idle < 23 ∧
    (⟨.inFrame Reception.opened, 0, false, 0, .ordinary, .none, false, false, false, 0, 0, 0⟩ : Lif).receive ≠ .outside ∧
    (withLif .member { Lif.reset with lineDominant := true, runLength := 47, runClass := .long }).lif.runLength < 48 ∧
    (withLif .listen { Lif.reset with lineDominant := true, runLength := 48 }).stc.station ≠ .member ∧
    (withLif .member { Lif.reset with lineDominant := true, runLength := 8192 }).lif.lineDominant = true ∧
    (withLif .member { Lif.reset with lineDominant := true, runLength := 18 }).lif.runClass = .ordinary ∧
    Lif.reset.drive = .none ∧ 23 % 2 = 1 ∧ (member.request .announce).offered.isSome = true ∧ ¬18 < 18 ∧ 18 < 19 ∧
    8191 < 8192 := by decide

/-- An edge between two characters and one within a character, nothing still to be told; a mismatch in a run of 9 T. -/
theorem witness_RunsBegin_inAFrame : ∃ l m : Lif, CollisionTold l ∧ BreakTold l ∧ l.lineDominant = false ∧
    l.receive = .inFrame ⟨[0xA5#8], none, 0, 3, false⟩ ∧ m.receive = .inFrame ⟨[0xA5#8], some 5, 0, 0, false⟩ ∧
    CollisionTold m ∧ BreakTold m ∧ (withLif .member { (mismatch .outside 0).lif with
      lineDominant := true, runLength := 18 }).lif.mismatch = true :=
  ⟨{ Lif.reset with receive := .inFrame ⟨[0xA5#8], none, 0, 3, false⟩ },
    { Lif.reset with receive := .inFrame ⟨[0xA5#8], some 5, 0, 0, false⟩ },
    (fun _ => rfl), (fun _ h => by cases h), rfl, rfl, rfl, (fun _ => rfl),
    (fun _ h => by cases h), rfl⟩

/-- A mismatch whose run has ended, on a sound line, with the line recessive; a recessive line without one. -/
theorem witness_RunsBegin_afterAMismatch : ∃ s : State, s.stc.station ≠ .start ∧ s.lif.lineDominant = false ∧
    s.lif.mismatch = true ∧ LineSound s :=
  ⟨withLif .member { Lif.reset with mismatch := true }, by decide, rfl, rfl,
    ⟨by decide, by decide, by decide, by decide, by decide⟩⟩

theorem witness_LongRunCutsAndDiscards :
    (withLif .isolated { Lif.reset with lineDominant := true }).lif.lineDominant = true ∧
    Lif.reset.runClass = .ordinary ∧ (inState .isolated).stc.station ≠ .start ∧
    (sending (.ready 2) (.ready 2)).lif.drive.isFrame = true ∧ Lif.reset.drive.isFrame = false ∧
    ({ Lif.reset with receive := .inFrame Reception.opened } : Lif).receive = .inFrame Reception.opened := by decide

/-- Breaks of 24 T and of just below 4096 T. -/
theorem witness_LineBreakRewindsAMember : ∀ n : Nat, n = 48 ∨ n = 8191 →
    ∃ s : State, s.stc.station = .member ∧ ViewSound s ∧ s.txq.inFlight = none ∧ s.lif.lineDominant = true ∧
      s.lif.runLength = n ∧ 48 ≤ n ∧ n < 8192 ∧ s.lif.runClass ≠ .ordinary := by
  intro n hn
  refine ⟨withLif .member { Lif.reset with lineDominant := true, runLength := n, runClass := .long }, rfl, ?_, rfl, rfl,
    rfl, ?_, ?_, fun h => by cases h⟩
  · exact member_view_sound rfl rfl rfl rfl
  · omega
  · omega

/-- START, a sender, a receiver outside any frame; in a frame with the counter full, and after a mismatch. -/
theorem witness_ReceptionErrorsDiscardTheFrame : State.reset.stc.station = .start ∧
    (sending (.ready 2) (.ready 2)).lif.drive = .frame ⟨3, 1, .ready 2⟩ 7 ∧ member.lif.receive = .outside ∧
    (withLif .listen { Lif.reset with receive := .inFrame Reception.opened, rxErrors := 65535 }).lif.receive =
      .inFrame Reception.opened ∧
    (∀ f n, (withLif .member { Lif.reset with
      mismatch := true, receive := .inFrame Reception.opened }).lif.drive ≠ .frame f n) :=
  ⟨rfl, rfl, rfl, rfl, fun _ _ h => by cases h⟩

/-- A run told and a run untold at 9.5 T, with a frame in reception. -/
theorem witness_ReceptionErrors_limits : LimitsTold (withLif .listen { Lif.reset with
      lineDominant := true, runLength := 19, runClass := .long }).lif ∧
    LimitsTold (withLif .listen { Lif.reset with receive := .inFrame Reception.opened }).lif ∧
    ¬LimitsTold (withLif .listen { Lif.reset with lineDominant := true, runLength := 19 }).lif :=
  ⟨fun _ => ⟨(fun _ h => by cases h), fun h => absurd h (by decide)⟩, (fun h => by cases h),
    fun h => (h rfl).1 (by decide) rfl⟩

theorem witness_ArrivalsOutsideMemberChangeNothing : (Instr.readyArrival 5 1 1).frame? = some ⟨5, 1, .ready 1⟩ ∧
    frameValid ⟨5, 1, .ready 1⟩ = true ∧ frameValid ⟨5, 1, .fault ⟨.emrg, .domain, 0, 0⟩⟩ = false ∧
    (inState .isolated).lif.drive.isFrame = false ∧ CollisionTold (inState .isolated).lif ∧ (inState .listen).stc.station = .listen ∧
    (∀ a, (Body.ready 1) ≠ .announce a) :=
  ⟨rfl, rfl, rfl, rfl, (fun _ => rfl), rfl, fun _ h => by cases h⟩

theorem witness_EveryArrivalResetsSilenceAndCancels :
    (Instr.memberSilentArrival 5 7 9).frame? = some ⟨5, 7, .memberSilent 9⟩ ∧ HearsOther member ⟨5, 7, .memberSilent 9⟩ ∧
    (Instr.rankTimeoutArrival 5 7 1).frame? = some ⟨5, 7, .rankTimeout 1⟩ ∧ HearsOther member ⟨5, 7, .rankTimeout 1⟩ ∧
    (member.record 5).present = true :=
  ⟨rfl, hears _ _ rfl, rfl, hears _ _ rfl, by decide⟩

/-- An own READY; an own HOLD and an own FAULT with something remembered, absorbed and not. -/
theorem witness_OwnArrivalRemovesItsEntry : HearsOwn (sending (.ready 2) (.ready 2)) ⟨3, 1, .ready 2⟩ ∧
    (sending (.ready 2) (.ready 2)).txq.remembered = none ∧ bodyKey (.ready 2) ≠ .advance ∧
    (1 : Epoch) = member.dvu.epoch ∧ (⟨[.ready 2], some .ready, none⟩ : Txq).Sound ∧
    (⟨[.hold .hold], some .hold, some (.hold .resume)⟩ : Txq).entries.length ≤ 11 ∧
    rewindOf (.fault ⟨.late, .rank, 2, 1⟩) = some 1 ∧ faultAbsorbed ⟨.soft, .domain, 2, 0⟩ 1 2 = false ∧
    faultAbsorbed ⟨.late, .rank, 2, 1⟩ 1 2 = true :=
  ⟨hearsOwn _ _ rfl rfl, rfl, by decide, rfl, ⟨by decide, by decide, fun k h => by cases h; decide⟩, by decide, by decide,
    by decide, by decide⟩

/-- A view that agrees; fronts that differ, at the limit of 7 too; base ranks that differ. -/
theorem witness_EqualAnnounceIsAppliedAndChecked :
    HearsOther member ⟨5, 1, .announce ⟨1, .ready, 0, .rank 1, 0, false, false, false⟩⟩ ∧
    HearsOther member ⟨5, 1, .announce ⟨1, .ready, 0, .all, 0, false, true, false⟩⟩ ∧
    HearsOther member ⟨5, 1, .announce ⟨1, .ready, 0, .rank 1, 2, false, false, false⟩⟩ ∧
    (withDvu { member.dvu with front := .rank 7 }).dvu.front ≠ .all ∧ member.txq.holds .fault = false ∧
    member.txq.entries.length < 12 ∧
    HearsOwn (sending (.announce ⟨2, .held, 0, .rank 1, 0, false, false, false⟩) .announce)
      ⟨3, 1, .announce ⟨2, .held, 0, .rank 1, 0, false, false, false⟩⟩ ∧
    ViewSound (sending (.announce ⟨2, .held, 0, .rank 1, 0, false, false, false⟩) .announce) :=
  ⟨hears _ _ rfl, hears _ _ rfl, hears _ _ rfl, by decide, rfl, by decide, hearsOwn _ _ rfl rfl,
    member_view_sound rfl rfl rfl rfl⟩

/-- Entries that a rewind keeps and that it purges. -/
theorem witness_QueuePurged_entries : KeptAtRewind 1 2 (.fault ⟨.wdog, .rank, 2, 0⟩) ∧ KeptAtRewind 1 2 .announce ∧
    KeptAtRewind 1 2 (.hold .resume) ∧ ¬KeptAtRewind 1 2 (.fault ⟨.wdog, .rank, 2, 1⟩) ∧
    ¬KeptAtRewind 1 2 (.fault ⟨.wdog, .local, 2, 2⟩) ∧ ¬KeptAtRewind 1 2 (.ready 2) := by
  simp only [KeptAtRewind, Absorbed]
  decide

/-- A base that covers the own rank, with the board running and held, and one that does not. -/
theorem witness_NewerAnnounceCatchesUp :
    HearsOther member ⟨5, 2, .announce ⟨1, .held, 0, .none, 0, false, false, false⟩⟩ ∧
    HearsOther member ⟨5, 2, .announce ⟨1, .held, 0, .rank 6, 7, false, true, false⟩⟩ ∧
    compareEpoch 2 member.dvu.epoch 5 member.self = .newer ∧ (0 : Rank) ≤ member.rank ∧ ¬(7 : Rank) ≤ member.rank ∧
    boardRunning runBoard.board = true ∧ boardRunning member.bsu.board = false ∧ (member.record 5).present = true ∧
    (member.record 6).present = false ∧ member.txq.entries.length ≤ 9 :=
  ⟨hears _ _ rfl, hears _ _ rfl, by decide, by decide, by decide, rfl, rfl, by decide, by decide, by decide⟩

/-- The own record at and below the new base, in a sound view. -/
theorem witness_NewerAnnounce_ownRecord : ViewSound member ∧ member.rank = 2 ∧ ¬(2 : Rank) < 2 ∧ (2 : Rank) < 3 ∧
    HearsOther member ⟨5, 2, .announce ⟨1, .held, 0, .rank 1, 2, false, false, false⟩⟩ ∧
    HearsOther member ⟨5, 2, .announce ⟨1, .held, 0, .rank 2, 3, false, false, false⟩⟩ :=
  ⟨member_sound, rfl, by decide, by decide, hears _ _ rfl, hears _ _ rfl⟩

theorem witness_UnadoptedAnnounceRefreshesPresence :
    HearsOther member ⟨5, 0, .announce ⟨1, .ready, 0, .none, 0, false, false, false⟩⟩ ∧
    compareEpoch 0 member.dvu.epoch 5 member.self = .older ∧
    HearsOther member ⟨5, 2, .announce ⟨1, .ready, 0, .none, 0, true, false, false⟩⟩ ∧
    compareEpoch 2 member.dvu.epoch 5 member.self = .newer ∧ member.dvu.gather = false :=
  ⟨hears _ _ rfl, by decide, hears _ _ rfl, by decide, rfl⟩

/-- A newer ANNOUNCE; an equal one with the kept front; an equal one with a lower front; an older one. -/
theorem witness_ListenAdoptsTheFirstFitAnnounce : (inState .listen).stc.station = .listen ∧
    announceConsistent ⟨1, .held, 0, .rank 1, 0, false, true, false⟩ = true ∧
    announceConsistent ⟨1, .held, 0, .none, 0, true, true, false⟩ = true ∧
    (inState .listen).lif.drive.isFrame = false ∧ (inState .listen).lif.mismatch = false ∧
    (inState .listen).txq.inFlight = none ∧
    (5 : StationId) ≠ (inState .listen).self ∧ (3 : StationId) = (inState .listen).self ∧
    compareEpoch 2 (inState .listen).dvu.epoch 5 3 = .newer ∧
    compareEpoch 1 (inState .listen).dvu.epoch 5 3 = .equal ∧ compareEpoch 0 (inState .listen).dvu.epoch 5 3 = .older ∧
    frontValue (inState .listen).dvu.front ≤ frontValue (.rank 1) ∧
    frontValue .none < frontValue (inState .listen).dvu.front := by decide

/-- Accepted from another station and at the own arrival; refused for its epoch and for its old front. -/
theorem witness_AdvanceIsAcceptedOrRefused : HearsOther member ⟨5, 1, .advance (.rank 1) (.rank 2)⟩ ∧
    HearsOwn (sending (.advance (.rank 1) .all) (.advance (.rank 1) .all)) ⟨3, 1, .advance (.rank 1) .all⟩ ∧
    (1 : Epoch) = member.dvu.epoch ∧ (∀ j : StationId, member.dvu.holdSet[j] = false) ∧
    member.dvu.front = .rank 1 ∧ frontValue (.rank 1) < frontValue (.rank 2) ∧
    HearsOther member ⟨5, 2, .advance (.rank 1) (.rank 2)⟩ ∧ (2 : Epoch) ≠ member.dvu.epoch ∧
    HearsOther member ⟨5, 1, .advance .none (.rank 0)⟩ ∧ Front.none ≠ member.dvu.front :=
  ⟨hears _ _ rfl, hearsOwn _ _ rfl rfl, rfl, by decide, rfl, by decide, hears _ _ rfl, by decide, hears _ _ rfl,
    by decide⟩

/-- Rank timeouts of the front and of another rank; lapses of another station, of the station itself, of an absent one. -/
theorem witness_LapsesMarkOrRemove : HearsOther member ⟨5, 1, .rankTimeout 1⟩ ∧ member.dvu.front = .rank 1 ∧
    (member.record 5).blocking (.rank 1) = true ∧ (member.record 3).blocking (.rank 1) = false ∧
    HearsOwn (sending (.rankTimeout 2) (.rankTimeout 2)) ⟨3, 1, .rankTimeout 2⟩ ∧
    HearsOther member ⟨5, 1, .memberSilent 3⟩ ∧ (3 : StationId) = member.self ∧
    HearsOwn (sending (.memberSilent 5) (.memberSilent 5)) ⟨3, 1, .memberSilent 5⟩ ∧ (member.record 5).present = true ∧
    (member.record 9).present = false ∧ HearsOther member ⟨5, 4, .memberSilent 3⟩ :=
  ⟨hears _ _ rfl, rfl, by decide, by decide, hearsOwn _ _ rfl rfl, hears _ _ rfl, rfl, hearsOwn _ _ rfl rfl, by decide,
    by decide, hears _ _ rfl⟩

/-- START, DOMAIN and RANK at both ends of the ranks; another station's and the own. -/
theorem witness_AppliedFaultRewinds : ViewSound member ∧ HearsOther member ⟨5, 1, .fault ⟨.start, .domain, 1, 0⟩⟩ ∧
    HearsOther member ⟨5, 1, .fault ⟨.soft, .domain, 1, 0⟩⟩ ∧ HearsOther member ⟨5, 1, .fault ⟨.wdog, .rank, 0, 0⟩⟩ ∧
    HearsOwn (sending (.fault ⟨.wdog, .rank, 7, 7⟩) (.fault ⟨.wdog, .rank, 7, 7⟩)) ⟨3, 1, .fault ⟨.wdog, .rank, 7, 7⟩⟩ ∧
    ViewSound (sending (.fault ⟨.wdog, .rank, 7, 7⟩) (.fault ⟨.wdog, .rank, 7, 7⟩)) :=
  ⟨member_sound, hears _ _ rfl, hears _ _ rfl, hears _ _ rfl, hearsOwn _ _ rfl rfl,
    member_view_sound rfl rfl rfl rfl⟩

theorem witness_OtherFaultsDoNotRewind : HearsOther member ⟨5, 1, .fault ⟨.wdog, .local, 1, 1⟩⟩ ∧
    HearsOwn (sending (.fault ⟨.wdog, .local, 2, 2⟩) (.fault ⟨.wdog, .local, 2, 2⟩)) ⟨3, 1, .fault ⟨.wdog, .local, 2, 2⟩⟩ ∧
    HearsOther member ⟨5, 0, .fault ⟨.start, .domain, 1, 0⟩⟩ ∧ compareEpoch 0 member.dvu.epoch 5 member.self = .older ∧
    HearsOther member ⟨5, 2, .fault ⟨.start, .domain, 1, 0⟩⟩ ∧ compareEpoch 2 member.dvu.epoch 5 member.self = .newer ∧
    (member.record 5).present = true :=
  ⟨hears _ _ rfl, hearsOwn _ _ rfl rfl, hears _ _ rfl, by decide, hears _ _ rfl, by decide, by decide⟩

/-- The first holder and the last; the own and another's. -/
theorem witness_HoldAndResumeChangeTheHoldSet : HearsOther member ⟨5, 9, .hold .hold⟩ ∧
    HearsOwn (sending (.hold .hold) (.hold .hold)) ⟨3, 1, .hold .hold⟩ ∧ (member.record 5).present = true ∧
    (∀ j : StationId, member.dvu.holdSet[j] = false) ∧
    HearsOwn (sending (.hold .resume) (.hold .resume)) ⟨3, 1, .hold .resume⟩ ∧
    (∃ s : State, HearsOther s ⟨5, 9, .hold .resume⟩ ∧ s.dvu.holdSet[(5 : StationId)] = true ∧
      (∀ j : StationId, j ≠ 5 → s.dvu.holdSet[j] = false) ∧ s.dvu.front ≠ .all ∧ s.dvu.gather = false ∧
      s.dvu.someBlocking = false ∧ s.txq.entries.length ≤ 9) :=
  ⟨hears _ _ rfl, hearsOwn _ _ rfl rfl, by decide, by decide, hearsOwn _ _ rfl rfl,
    (withDvu { member.dvu with front := .rank 0 }).addHold 5, ⟨rfl, ⟨rfl, rfl⟩, by decide, rfl⟩, by decide, by decide,
    by decide, rfl, by decide, by decide⟩

theorem witness_ReadyMarksItsSender : HearsOther member ⟨5, 1, .ready 1⟩ ∧
    HearsOwn (sending (.ready 2) (.ready 2)) ⟨3, 1, .ready 2⟩ ∧ (member.record 5).present = true ∧
    (member.record 3).present = true ∧ HearsOther member ⟨5, 0, .ready 1⟩ ∧ (0 : Epoch) ≠ member.dvu.epoch :=
  ⟨hears _ _ rfl, hearsOwn _ _ rfl rfl, by decide, by decide, hears _ _ rfl, by decide⟩

/-- A QUERY for this station and for another; the own one, with a slot that waits for it and without. -/
theorem witness_QueriesAreAnsweredAndTimed : HearsOther member ⟨5, 8, .query 3 .lastFault ⟨1, 2⟩⟩ ∧
    member.txq.entries.length < 12 ∧ HearsOther member ⟨5, 8, .query 9 .status ⟨1, 2⟩⟩ ∧
    HearsOwn (sending (.query 5 .status ⟨0, 1⟩) (.query 5 .status ⟨0, 1⟩)) ⟨3, 1, .query 5 .status ⟨0, 1⟩⟩ ∧
    (5 : StationId) ≠ member.self ∧ (Slot.reset.allocate 5 .status).state = .waiting ∧
    (Slot.reset.allocate 5 .status).gen = 1 ∧ Slot.reset.state ≠ .waiting :=
  ⟨hears _ _ rfl, by decide, hears _ _ rfl, hearsOwn _ _ rfl rfl, by decide, rfl, rfl, by decide⟩

/-- A REPLY that matches and one for another requester; a waiting slot whose timer has run out. -/
theorem witness_RepliesAndExpiriesCompleteSlots : ∃ s : State,
    HearsOther s ⟨5, 8, .reply ⟨3, .status, ⟨0, 1⟩, .ok, 1, 2⟩⟩ ∧ (s.qru.slots[(0 : SlotIx)]).state = .waiting ∧
    (s.qru.slots[(0 : SlotIx)]).gen = 1 ∧ (s.qru.slots[(0 : SlotIx)]).target = 5 ∧ (3 : StationId) = s.self ∧
    HearsOther s ⟨5, 8, .reply ⟨7, .status, ⟨0, 1⟩, .ok, 1, 2⟩⟩ ∧ (7 : StationId) ≠ s.self ∧
    (s.qru.slots[(0 : SlotIx)]).timer.isRunning = true :=
  ⟨member.updateSlot 0 (fun sl => { sl.allocate 5 .status with timer := .running 0 }),
    ⟨rfl, ⟨rfl, rfl⟩, by decide, rfl⟩, by decide, by decide, by decide, rfl, ⟨rfl, ⟨rfl, rfl⟩, by decide, rfl⟩, by decide,
    by decide⟩

/-- A transaction to begin; ends before, at and without the last byte; a marked record and a marked slot; a port command
that finds no transaction. -/
theorem witness_TransactionsCarryOneCommand : Lpt.reset.scs = .high ∧
    (Lpt.answered [0x20#8] (List.replicate 10 0#8) (some (.record 4))).scs = .low ∧
    (Lpt.answered [0x20#8] (List.replicate 10 0#8) (some (.record 4))).taken = true ∧ (inPort member).lpt.taken = false ∧
    0 + 9 < (Lpt.answered [0x20#8] (List.replicate 10 0#8) (some (.record 4))).response.length ∧
    (Lpt.answered [0x20#8] (List.replicate 10 0#8) (some (.record 4))).response.length ≤ 0 + 10 ∧
    (Lpt.answered [0x51#8, 1#8] (List.replicate 5 0#8) (some (.slot 0))).mark = some (.slot 0) ∧
    (Lpt.answered [0x10#8] [] none).mark = none ∧ Slot.reset.expire.state = .done ∧
    isPortCommand (.unknownCommand 0#8) = true ∧ ¬AwaitsCommand member ∧ AwaitsCommand (inPort member) ∧
    (inPort member).lpt.received = [] ∧ WellFormed (.unknownCommand 0#8) = true ∧ isPortCommand (.queryReq 3 1) = true ∧ (inPort member).lpt.cutOff.scs = .cut :=
  ⟨rfl, rfl, rfl, rfl, by decide, by decide, rfl, rfl, rfl, rfl, (fun h => by cases h.started.1),
    awaits .member (by decide), rfl, rfl, rfl, rfl⟩

theorem witness_StatusAndMemberReports : AwaitsCommand (inPort (inState .blocked)) ∧ (31#8).toNat = (31 : StationId).val ∧
    32 ≤ (32#8).toNat ∧ 0x12#8 ∉ commandCodes :=
  ⟨awaits _ (by decide), rfl, by decide, by decide⟩

/-- An empty log, and one with a record. -/
theorem witness_LogCommandsReportTheOldestRecord : AwaitsCommand (inPort member) ∧ (inPort member).clg.records = [] ∧
    AwaitsCommand (inPort member.recordEmergency) ∧ (inPort member.recordEmergency).clg.records.length = 1 :=
  ⟨awaits .member (by decide), rfl, ⟨by decide, by decide, by decide⟩, by decide⟩

/-- In MEMBER with a hold entry in flight, waiting, and with none; outside it; every scope and both ends of its range. -/
theorem witness_HoldAndResetRequestsNeedMember : AwaitsCommand (inPort member) ∧
    AwaitsCommand (inPort (sending (.hold .hold) (.hold .hold))) ∧
    (sending (.hold .hold) (.hold .hold)).txq.holds .hold = true ∧
    (⟨[.hold .hold], none, none⟩ : Txq).holds .hold = true ∧ member.txq.holds .hold = false ∧
    (inState .listen).stc.station ≠ .member ∧ AwaitsCommand (inPort (withBsu runBoard)) ∧ runBoard.budget ≠ 3 ∧
    (withBsu runBoard).txq.Sound ∧ (∀ sc : Scope, 1 ≤ (scopeCode sc).toNat ∧ (scopeCode sc).toNat ≤ 3) ∧
    (scopeCode .local).toNat = 1 ∧ (scopeCode .domain).toNat = 3 ∧ (0#8).toNat = 0 ∧ 3 < (4#8).toNat :=
  ⟨awaits .member (by decide), ⟨by decide, by decide, by decide⟩, by decide, by decide, by decide, by decide,
    ⟨by decide, by decide, by decide⟩, by decide, emptyQueue_sound, fun sc => by cases sc <;> decide, rfl, rfl, rfl,
    by decide⟩

/-- Each refusal, and slot 0 FREE. -/
theorem witness_QueryRequestIsRefusedOrAllocated : AwaitsCommand (inPort member) ∧ 32 ≤ (32#8).toNat ∧ (0#8).toNat = 0 ∧
    3 < (4#8).toNat ∧ (itemCode .status).toNat = 1 ∧ (itemCode .lastFault).toNat = 3 ∧
    (inState .listen).stc.station ≠ .member ∧ (member.record 9).present = false ∧ (member.record 5).present = true ∧
    (∀ j : SlotIx, (mapTable (fun _ sl => sl.drop) member.qru.slots)[j].state ≠ .free) ∧
    (∀ j : SlotIx, (member.qru.slots[j]).state = .free) ∧ (∀ m : SlotIx, ¬m < 0) ∧ member.txq.holds (.query 0) = false ∧
    (3 : StationId) = member.self :=
  ⟨awaits .member (by decide), by decide, rfl, by decide, rfl, rfl, by decide, by decide, by decide, by decide, by decide,
    by decide, rfl, rfl⟩

/-- A tag out of range and the greatest tag; a FREE, a waiting and a DONE slot, and another generation. -/
theorem witness_QueryTakeReportsADoneSlot : AwaitsCommand (inPort member) ∧ 16 ≤ (16#8).toNat ∧
    (15#8).toNat = (tagCode ⟨3, 3⟩).toNat ∧ (member.qru.slots[(3 : SlotIx)]).state = .free ∧
    (Slot.reset.allocate 5 .status).state = .waiting ∧ (Slot.reset.allocate 5 .status).gen ≠ 0 ∧
    (Slot.reset.allocate 5 .status).expire.state = .done ∧ (Slot.reset.allocate 5 .status).expire.gen = 1 :=
  ⟨awaits .member (by decide), by decide, by decide, by decide, rfl, by decide, rfl, rfl⟩

theorem witness_ClearExclEndsAnExclusion : ∀ b : BoardState, AwaitsCommand (inPort (withBsu { Bsu.reset with board := b })) ∧
    (inPort (withBsu { Bsu.reset with board := b })).bsu.board = b :=
  fun b => by cases b <;> exact ⟨⟨by decide, by decide, by decide⟩, rfl⟩

/-- A log of 15 records and a full one. -/
theorem witness_AppendsNumberRecordsAndMarkLosses : (inState .isolated).stc.station = .isolated ∧
    LimitsTold (inState .isolated).lif ∧ CollisionTold (inState .isolated).lif ∧
    (∀ n, (inState .isolated).lif.drive ≠ .brk n) ∧
    (List.replicate 15 (member.causeRecord .emrg none none none false)).length < 16 ∧
    ∃ a b rest, List.replicate 16 (member.causeRecord .emrg none none none false) = a :: b :: rest ∧ rest.length = 14 :=
  ⟨rfl, (fun h => by cases h), (fun _ => rfl),
    (fun _ h => Drive.noConfusion (show Drive.none = _ from h)), by decide, _, _, List.replicate 14 _, rfl, rfl⟩

/-- A fresh request with one place left; no FAULT pending in a full queue; a FAULT that a wider one meets, a START, and a
narrower one. -/
theorem witness_RequestsJoinOrMerge : (∀ x ∈ fullQueue.tail, x.key ≠ Entry.key (.advance .none .all)) ∧
    fullQueue.tail.length = 11 ∧ (⟨fullQueue, none, none⟩ : Txq).Sound ∧ (∀ f, .fault f ∉ fullQueue) ∧
    (⟨[.fault ⟨.late, .rank, 2, 1⟩], none, none⟩ : Txq).Sound ∧
    Wider ⟨.soft, .domain, 2, 0⟩ ⟨.late, .rank, 2, 1⟩ ∧ Wider ⟨.wdog, .rank, 2, 0⟩ ⟨.late, .rank, 2, 1⟩ ∧
    ¬Wider ⟨.wdog, .rank, 2, 1⟩ ⟨.late, .rank, 2, 1⟩ ∧ ¬Wider ⟨.wdog, .local, 2, 2⟩ ⟨.late, .rank, 2, 1⟩ :=
  ⟨by decide, by decide, fullQueue_sound, by simp [fullQueue], ⟨by decide, by decide, fun _ h => by cases h⟩,
    Or.inl ⟨rfl, by decide⟩, Or.inr (Or.inr ⟨rfl, rfl, by decide⟩), by unfold Wider; decide, by unfold Wider; decide⟩

/-- A full queue whose youngest least urgent entry is the ANNOUNCE; a more urgent request and one of the same class as the
least urgent of a queue of lapses alone. -/
theorem witness_FullQueueDiscardsTheLeastUrgent : (⟨fullQueue, none, none⟩ : Txq).Sound ∧ fullQueue.length = 12 ∧
    (⟨fullQueue, none, none⟩ : Txq).holds .fault = false ∧
    YoungestOfLeastUrgent (⟨fullQueue, none, none⟩ : Txq).waiting .announce ∧
    Entry.urgency (.fault ⟨.wdog, .local, 2, 2⟩) < Entry.urgency .announce ∧
    YoungestOfLeastUrgent ((List.finRange 12).map fun i => Entry.memberSilent ⟨i.val, by omega⟩) (.memberSilent 11) ∧
    Entry.urgency (.memberSilent 11) ≤ Entry.urgency (.memberSilent 12) :=
  ⟨fullQueue_sound, rfl, rfl, ⟨by decide, fullQueue.dropLast, [], by decide, by decide⟩, by decide,
    ⟨by decide, (List.finRange 11).map fun i => Entry.memberSilent ⟨i.val, by omega⟩, [], by decide, by decide⟩, by decide⟩

/-- The four ranges of the distance. -/
theorem witness_EpochsAreJudgedByDistance : (200#8 - 200#8).toNat = 0 ∧ (2#8 - 1#8).toNat = 1 ∧ (128#8 - 1#8).toNat = 127 ∧
    (129#8 - 1#8).toNat = 128 ∧ (130#8 - 1#8).toNat = 129 ∧ (5 : StationId) < 6 ∧ ¬(6 : StationId) < 6 := by decide

/-- A station at which the advance condition holds, and one at which it does not. -/
theorem witness_AdvanceConditionAndBlockingRecords :
    (withDvu { member.dvu with front := .rank 0 }).advanceCondition = true ∧ member.advanceCondition = false := by decide

theorem witness_ReceivingAFrameInvertsSendingIt :
    frameValid ⟨31, 255, .announce ⟨7, .excluded, 3, .all, 7, false, true, true⟩⟩ = true ∧
    frameValid ⟨0, 0, .fault ⟨.late, .rank, 7, 7⟩⟩ = true ∧
    [0x85#8, 0x0E#8, 0x01#8, 0x30#8].getLast? ≠ some (crcSerial [0x85#8, 0x0E#8, 0x01#8]) ∧
    crcSerial [0x85#8, 0x0E#8, 0x01#8] = 0x31#8 := by decide +kernel

/-- Every invariant holds of the station at reset, whose step has a next state. -/
theorem witness_EveryStepKeeps : QueueSound State.reset ∧ LogSound State.reset ∧ BoardSound State.reset ∧
    ViewSound State.reset ∧ TimersSound State.reset ∧ SlotsSound State.reset ∧ LineSound State.reset ∧
    ∃ t, step State.reset = .next t := by
  refine ⟨⟨emptyQueue_sound, by decide, by decide, by decide⟩, ⟨by decide, fun i h => absurd h (Nat.not_lt_zero i)⟩, ?_, ?_, ?_, ?_, ?_,
    _, rfl⟩
  · exact ⟨by decide, by decide, by decide, by decide, by decide, by decide, by decide⟩
  · exact ⟨fun h => absurd h (by decide), fun i => ⟨by revert i; decide, by revert i; decide⟩, by decide, by decide⟩
  · exact ⟨⟨by decide, by decide⟩, ⟨by decide, by decide, by decide⟩⟩
  · intro i; constructor <;> revert i <;> decide
  · exact ⟨by decide, by decide, by decide, by decide, by decide⟩

/-- A MEMBER that the invariants of the view and the queue hold of, with a command waiting. -/
theorem witness_EveryStepKeeps_member : ViewSound { member with pending := [.kick] } ∧
    QueueSound { member with pending := [.kick] } ∧ ∃ t, step { member with pending := [.kick] } = .next t :=
  ⟨member_view_sound rfl rfl rfl rfl,
    ⟨emptyQueue_sound, by decide, by decide, by decide⟩, _, rfl⟩

end Sys2Proof.Tests
end

