-- ==== Sys2Proof/Proofs/Epochs.lean ====
section
/-!
Epochs: what the successor of R3 is, one rule per line of R4's table for the comparison, and the statement about both.
-/

namespace Sys2Proof.Machine

/-! ### The successor (R3) -/

theorem epochSucc_last : epochSucc 255 = 1 := rfl

theorem epochSucc_of_ne_last {e : Epoch} (h : e ≠ 255) : epochSucc e = e + 1 := if_neg h

theorem epochSucc_toNat_of_lt {e : Epoch} (h : e.toNat < 255) : (epochSucc e).toNat = e.toNat + 1 := by
  have hne : e ≠ 255 := by bv_omega
  rw [epochSucc_of_ne_last hne]
  bv_omega

/-- The sum e + 1 wraps to 0 at 255 alone, and there the successor is 1. -/
theorem epochSucc_ne_zero (e : Epoch) : epochSucc e ≠ 0 := by
  by_cases h : e = 255
  · subst h
    decide
  · rw [epochSucc_of_ne_last h]
    bv_omega

/-! ### The comparison (R4) -/

section
variable {a b : Epoch} {sender self : StationId}

@[simp] theorem compareEpoch_self : compareEpoch a a sender self = .equal := if_pos rfl

theorem compareEpoch_zero_right (ha : a ≠ 0) : compareEpoch a 0 sender self = .newer := by
  rw [compareEpoch, if_neg ha, if_pos rfl]

theorem compareEpoch_zero_left (hb : b ≠ 0) : compareEpoch 0 b sender self = .older := by
  rw [compareEpoch, if_neg hb.symm, if_neg hb, if_pos rfl]

/-- Epochs at distance 0 are one epoch. -/
theorem eq_of_epochDistance_zero (hd : (a - b).toNat = 0) : a = b :=
  sub_eq_zero.mp (BitVec.eq_of_toNat_eq hd)

/-- Between two nonzero epochs, not the same, the distance alone decides, but for the opposed pair, where the IDs do. -/
theorem compareEpoch_of_nonzero (ha : a ≠ 0) (hb : b ≠ 0) (hd : (a - b).toNat ≠ 0) :
    compareEpoch a b sender self =
      if (a - b).toNat < 128 then .newer
      else if (a - b).toNat = 128 then (if sender < self then .newer else .older)
      else .older := by
  have hab : a ≠ b := by
    rintro rfl
    exact hd (by simp)
  simp only [compareEpoch, if_neg hab, if_neg hb, if_neg ha]

theorem compareEpoch_newer_of_distance (ha : a ≠ 0) (hb : b ≠ 0) (hpos : 1 ≤ (a - b).toNat)
    (hle : (a - b).toNat ≤ 127) : compareEpoch a b sender self = .newer := by
  rw [compareEpoch_of_nonzero ha hb (by omega), if_pos (by omega)]

theorem compareEpoch_opposed (ha : a ≠ 0) (hb : b ≠ 0) (hd : (a - b).toNat = 128) :
    compareEpoch a b sender self = if sender < self then .newer else .older := by
  rw [compareEpoch_of_nonzero ha hb (by omega), if_neg (by omega), if_pos hd]

theorem compareEpoch_older_of_distance (ha : a ≠ 0) (hb : b ≠ 0) (hd : 129 ≤ (a - b).toNat) :
    compareEpoch a b sender self = .older := by
  rw [compareEpoch_of_nonzero ha hb (by omega), if_neg (by omega), if_neg (by omega)]

end

/-- Settles O53: the successor by its two cases, the comparison by the lines of R4's table. -/
theorem epochsAreJudgedByDistance : Obligations.EpochsAreJudgedByDistance := by
  refine ⟨⟨epochSucc_last, fun _ => epochSucc_toNat_of_lt, epochSucc_ne_zero⟩,
    fun a b sender self => ⟨?bothZero, ?ownZero, ?frameZero, ?nonzero⟩⟩
  case bothZero =>
    rintro rfl rfl
    exact compareEpoch_self
  case ownZero =>
    rintro ha rfl
    exact compareEpoch_zero_right ha
  case frameZero =>
    rintro rfl hb
    exact compareEpoch_zero_left hb
  case nonzero =>
    rintro ha hb _ rfl
    refine ⟨fun hd => ?equal, compareEpoch_newer_of_distance ha hb, fun hd hlt => ?opposedLower,
      fun hd hge => ?opposedOther, compareEpoch_older_of_distance ha hb⟩
    case equal =>
      rw [eq_of_epochDistance_zero hd]
      exact compareEpoch_self
    case opposedLower => rw [compareEpoch_opposed ha hb hd, if_pos hlt]
    case opposedOther => rw [compareEpoch_opposed ha hb hd, if_neg hge]

end Sys2Proof.Machine
end

/-!
Release sequencing: blocking records (R27), the lowest blocking rank (R41), the advance condition by its six terms (R29),
the new front of a requested ADVANCE (R30) and the statement about all of them.
-/

namespace Sys2Proof.Machine

/-! ### The lowest rank that meets a test -/

theorem ranks_eq_finRange : ranks = List.finRange 8 := by decide

/-- The ranks are listed lowest first, so a search finds the lowest. -/
theorem ranks_find?_eq_some_iff (p : Rank → Bool) (k : Rank) :
    ranks.find? p = some k ↔ p k = true ∧ ∀ j, p j = true → k ≤ j := by
  rw [ranks_eq_finRange, List.find?_eq_some_iff_getElem]
  simp only [List.getElem_finRange, Bool.not_eq_true', ← Bool.not_eq_true]
  refine and_congr_right fun _ => ⟨?found, ?lowest⟩
  case found =>
    rintro ⟨i, hi, rfl, hbelow⟩ j hj
    exact le_of_not_gt fun hlt => hbelow j hlt hj
  case lowest =>
    intro hlow
    exact ⟨k, by simp, rfl, fun j hj hp => absurd (hlow _ hp) (not_le.mpr hj)⟩

theorem ranks_find?_eq_none_iff (p : Rank → Bool) : ranks.find? p = none ↔ ∀ k, p k = false := by
  simp [ranks_eq_finRange, List.find?_eq_none]

/-- Some record of the table meets `q` and has the rank. -/
theorem anyTable_rank_iff {n : Nat} (q : Record → Bool) (k : Rank) (t : Vector Record n) :
    anyTable (fun r => q r && r.rank == k) t = true ↔ ∃ i : Fin n, q t[i] = true ∧ t[i].rank = k := by
  simp [anyTable_iff]

/-! ### Blocking records (R27, R41) -/

theorem frontReaches_iff (f : Front) (r : Rank) : frontReaches f r = true ↔ (r.val : Int) ≤ frontValue f :=
  decide_eq_true_iff

theorem frontReaches_eq_false_iff (f : Front) (r : Rank) : frontReaches f r = false ↔ frontValue f < r.val := by
  simp [frontReaches]

theorem Record.blocking_iff (r : Record) (f : Front) : r.blocking f = true ↔
    r.present = true ∧ (r.rank.val : Int) ≤ frontValue f ∧ r.ready = false ∧ r.late = false ∧ r.board ≠ .excluded := by
  simp [Record.blocking, frontReaches_iff, and_assoc]

theorem Dvu.someBlocking_iff (d : Dvu) :
    d.someBlocking = true ↔ ∃ i : StationId, (d.records[i]).blocking d.front = true :=
  anyTable_iff _ _

theorem Dvu.someBlocking_eq_false_iff (d : Dvu) :
    d.someBlocking = false ↔ ∀ i : StationId, (d.records[i]).blocking d.front = false := by
  simp [← Bool.not_eq_true, Dvu.someBlocking_iff]

theorem Dvu.lowestBlocking_eq_some_iff (d : Dvu) (b : Rank) : d.lowestBlocking = some b ↔
    (∃ i : StationId, (d.records[i]).blocking d.front = true ∧ (d.records[i]).rank = b) ∧
    ∀ i : StationId, (d.records[i]).blocking d.front = true → b ≤ (d.records[i]).rank := by
  simp only [Dvu.lowestBlocking, ranks_find?_eq_some_iff, anyTable_rank_iff]
  refine and_congr_right fun _ => ⟨fun h i hi => h _ ⟨i, hi, rfl⟩, ?_⟩
  rintro h _ ⟨i, hi, rfl⟩
  exact h i hi

theorem Dvu.lowestBlocking_eq_none_iff (d : Dvu) : d.lowestBlocking = none ↔ d.someBlocking = false := by
  rw [Dvu.lowestBlocking, ranks_find?_eq_none_iff, Dvu.someBlocking_eq_false_iff]
  simp only [← Bool.not_eq_true, anyTable_rank_iff]
  constructor
  · exact fun h i hi => h _ ⟨i, hi, rfl⟩
  · rintro h _ ⟨i, hi, _⟩
    exact h i hi

theorem Dvu.someBlocking_iff_lowestBlocking (d : Dvu) : d.someBlocking = true ↔ ∃ b, d.lowestBlocking = some b := by
  rw [← Option.ne_none_iff_exists', ne_eq, Dvu.lowestBlocking_eq_none_iff, Bool.not_eq_false]

/-! ### The new front (R30) -/

/-- R30: a present record holds the rank, and the rank stands above the front. -/
def Dvu.HeldAbove (d : Dvu) (k : Rank) : Prop :=
  ∃ i : StationId, (d.records[i]).present = true ∧ (d.records[i]).rank = k ∧ frontValue d.front < k.val

/-- The rank that the model's search for the new front finds. -/
def Dvu.nextRank (d : Dvu) : Option Rank :=
  ranks.find? (fun k => !frontReaches d.front k && anyTable (fun r => r.present && r.rank == k) d.records)

theorem Dvu.nextFront_eq_nextRank (d : Dvu) : d.nextFront = d.nextRank.elim .all .rank := by
  unfold Dvu.nextFront Dvu.nextRank
  split
  · next h => rw [h]; rfl
  · next h => rw [h]; rfl

/-- The test of that search. -/
theorem Dvu.heldAbove_iff (d : Dvu) (k : Rank) :
    (!frontReaches d.front k && anyTable (fun r => r.present && r.rank == k) d.records) = true ↔ d.HeldAbove k := by
  rw [Bool.and_eq_true, Bool.not_eq_true', frontReaches_eq_false_iff, anyTable_rank_iff]
  constructor
  · rintro ⟨habove, i, hpresent, hrank⟩
    exact ⟨i, hpresent, hrank, habove⟩
  · rintro ⟨i, hpresent, hrank, habove⟩
    exact ⟨habove, i, hpresent, hrank⟩

theorem Dvu.nextRank_eq_some_iff (d : Dvu) (k : Rank) :
    d.nextRank = some k ↔ d.HeldAbove k ∧ ∀ j, d.HeldAbove j → k ≤ j := by
  simp only [Dvu.nextRank, ranks_find?_eq_some_iff, Dvu.heldAbove_iff]

theorem Dvu.nextRank_eq_none_iff (d : Dvu) : d.nextRank = none ↔ ∀ k, ¬d.HeldAbove k := by
  simp only [Dvu.nextRank, ranks_find?_eq_none_iff, ← Bool.not_eq_true, Dvu.heldAbove_iff]

theorem Dvu.nextFront_eq_rank_iff (d : Dvu) (k : Rank) :
    d.nextFront = .rank k ↔ d.HeldAbove k ∧ ∀ j, d.HeldAbove j → k ≤ j := by
  rw [← Dvu.nextRank_eq_some_iff, Dvu.nextFront_eq_nextRank]
  cases d.nextRank <;> simp

theorem Dvu.nextFront_eq_all_iff (d : Dvu) : d.nextFront = .all ↔ ∀ k, ¬d.HeldAbove k := by
  rw [← Dvu.nextRank_eq_none_iff, Dvu.nextFront_eq_nextRank]
  cases d.nextRank <;> simp

/-- What holds of every rank held above the front is what holds of every present record above it. -/
theorem Dvu.forall_heldAbove_iff (d : Dvu) (P : Rank → Prop) : (∀ k, d.HeldAbove k → P k) ↔
    ∀ i : StationId, (d.records[i]).present = true → frontValue d.front < (d.records[i]).rank.val →
      P (d.records[i]).rank := by
  constructor
  · exact fun h i hpresent habove => h _ ⟨i, hpresent, rfl, habove⟩
  · rintro h _ ⟨i, hpresent, rfl, habove⟩
    exact h i hpresent habove

/-! ### The advance condition (R29, R31) -/

theorem State.isMember_iff (s : State) : s.isMember = true ↔ s.stc.station = .member := beq_iff_eq

/-- The queue holds no ADVANCE, waiting or in flight, whatever its fields. -/
theorem Txq.holds_advance_eq_false_iff (q : Txq) : q.holds .advance = false ↔ ∀ o n, .advance o n ∉ q.entries := by
  rw [Txq.holds_eq_false_iff, List.mem_map, not_exists]
  constructor
  · exact fun h o n hmem => h _ ⟨hmem, rfl⟩
  · rintro h e ⟨hmem, hkey⟩
    obtain ⟨o, n, rfl⟩ : ∃ o n, e = .advance o n := by
      cases e with
      | advance o n => exact ⟨o, n, rfl⟩
      | _ => cases hkey
    exact h o n hmem

theorem State.advanceCondition_iff (s : State) : s.advanceCondition = true ↔
    s.stc.station = .member ∧ s.dvu.front ≠ .all ∧ (∀ i : StationId, s.dvu.holdSet[i] = false) ∧
      (s.dvu.gather = false ∨ s.dvu.gatherExpired = true) ∧
      (∀ i : StationId, (s.record i).blocking s.dvu.front = false) ∧ ∀ o n, .advance o n ∉ s.txq.entries := by
  simp only [State.advanceCondition, Bool.and_eq_true, Bool.or_eq_true, Bool.not_eq_true', bne_iff_ne,
    State.isMember_iff, holdClear_iff, Dvu.someBlocking_eq_false_iff, Txq.holds_advance_eq_false_iff, and_assoc]
  rfl

theorem State.evalAdvance_of_condition {s : State} (h : s.advanceCondition = true) :
    s.evalAdvance = s.request (.advance s.dvu.front s.dvu.nextFront) := if_pos h

theorem State.evalAdvance_of_no_condition {s : State} (h : s.advanceCondition = false) : s.evalAdvance = s :=
  if_neg (by simp [h])

/-- Settles O54: R27 and R41 of the view, then R29 and R30 of the state, each by its own equivalence. -/
theorem advanceConditionAndBlockingRecords : Obligations.AdvanceConditionAndBlockingRecords := by
  refine ⟨fun d => ⟨Record.blocking_iff, d.lowestBlocking_eq_some_iff, d.someBlocking_iff_lowestBlocking⟩,
    fun s => ⟨s.advanceCondition_iff, fun k => ?nextRank, ?nextAll, State.evalAdvance_of_condition,
      State.evalAdvance_of_no_condition⟩⟩
  case nextRank =>
    rw [Dvu.nextFront_eq_rank_iff, Dvu.forall_heldAbove_iff]
    rfl
  case nextAll =>
    rw [Dvu.nextFront_eq_all_iff, Dvu.forall_heldAbove_iff]
    simp only [imp_false, not_lt]
    rfl

end Sys2Proof.Machine

/-!
Requests to the Transmit Queue: what one with a fresh key and one that meets a waiting entry make of the state, R50's
width of a FAULT, and the statement about joining and merging (R50, R157, R158).
-/

namespace Sys2Proof.Machine

/-! ### The width of a FAULT (R50) -/

/-- The width's number orders the scopes as R50 does: the eight RANK widths lie between DOMAIN's and LOCAL's. -/
theorem wider_iff_faultWidth_lt (g f : FaultFields) : Wider g f ↔ faultWidth g < faultWidth f := by
  have hg := g.rewindRank.isLt
  have hf := f.rewindRank.isLt
  unfold Wider faultWidth
  match g.scope, f.scope with
  | .domain, .domain | .domain, .rank | .domain, .local => simp
  | .rank, .domain | .rank, .rank => simp
  | .rank, .local =>
    simp
    omega
  | .local, .domain | .local, .local => simp
  | .local, .rank =>
    simp
    omega

theorem mergeFault_of_replaced {f g : FaultFields} (h : g.cause = .start ∨ Wider g f) :
    mergeFault f g = ⟨g.cause, g.scope, f.senderRank, g.rewindRank⟩ :=
  if_pos (h.imp_right (wider_iff_faultWidth_lt g f).1)

theorem mergeFault_of_kept {f g : FaultFields} (h : ¬(g.cause = .start ∨ Wider g f)) : mergeFault f g = f :=
  if_neg (mt (Or.imp_right (wider_iff_faultWidth_lt g f).2) h)

/-! ### A request that discards nothing -/

theorem State.request_of_no_discard {s : State} {e : Entry} {q : Txq} (h : s.txq.request e = (q, none)) :
    s.request e = s.setTxq q := by
  unfold State.request
  rw [h]
  rfl

/-- R158: a fresh key with room. -/
theorem State.request_fresh {s : State} {e : Entry} (hroom : s.txq.entries.length < Config.queueCapacity)
    (hfresh : ∀ x ∈ s.txq.entries, x.key ≠ e.key) :
    s.request e = s.setTxq { s.txq with entries := s.txq.entries ++ [e] } := by
  have hnot : s.txq.holds e.key = false := by simpa [Txq.holds] using hfresh
  exact State.request_of_no_discard (Txq.request_fresh e hroom hnot)

/-! ### A request that meets a waiting entry -/

/-- R157: where no key stands twice, a merge changes the entry of its key alone, in its place. -/
theorem map_merge_at {l r : List Entry} {x e : Entry} (hkeys : ((l ++ x :: r).map Entry.key).Nodup)
    (hx : x.key = e.key) :
    (l ++ x :: r).map (fun h => if h.key = e.key then h.mergeRequest e else h) = l ++ x.mergeRequest e :: r := by
  have hother : ∀ y ∈ l ++ r, y.key ≠ e.key := by
    rw [List.map_append, List.map_cons, List.nodup_middle, ← List.map_append, List.nodup_cons] at hkeys
    intro y hy hk
    exact hkeys.1 (List.mem_map.2 ⟨y, hy, hk.trans hx.symm⟩)
  have hkept : ∀ m : List Entry, (∀ y ∈ m, y ∈ l ++ r) →
      m.map (fun h => if h.key = e.key then h.mergeRequest e else h) = m := fun m hm =>
    (List.map_congr_left fun y hy => if_neg (hother y (hm y hy))).trans (List.map_id' m)
  rw [List.map_append, List.map_cons, if_pos hx, hkept l fun _ => List.mem_append_left r,
    hkept r fun _ => List.mem_append_right l]

/-- R158: a request for the key of an entry that waits. -/
theorem State.request_waiting {s : State} {e x : Entry} {l r : List Entry} (hq : s.txq.Sound)
    (hentries : s.txq.entries = l ++ x :: r) (hx : x.key = e.key) (hwaits : s.txq.inFlight ≠ some e.key) :
    s.request e = s.setTxq { s.txq with entries := l ++ x.mergeRequest e :: r } := by
  have hheld : s.txq.holds e.key = true := by
    rw [Txq.holds_iff, hentries]
    simp [hx]
  refine State.request_of_no_discard ?_
  unfold Txq.request
  rw [if_pos hheld, if_neg hwaits, hentries, map_merge_at (hentries ▸ hq.keys) hx]

/-- R50: a FAULT request that meets a waiting FAULT. -/
theorem State.request_fault_waiting {s : State} {f : FaultFields} {l r : List Entry} (g : FaultFields)
    (hq : s.txq.Sound) (hentries : s.txq.entries = l ++ .fault f :: r) (hwaits : s.txq.inFlight ≠ some .fault) :
    s.request (.fault g) = s.setTxq { s.txq with entries := l ++ .fault (mergeFault f g) :: r } :=
  State.request_waiting (e := .fault g) hq hentries rfl hwaits

/-! ### Joining and merging (R50, R157, R158) -/

/-- Only a FAULT has the key FAULT. -/
theorem Txq.holds_fault_eq_false {q : Txq} (h : ∀ f, .fault f ∉ q.entries) : q.holds .fault = false := by
  rw [Txq.holds_eq_false_iff, List.mem_map]
  rintro ⟨x, hx, hk⟩
  cases x with
  | fault f => exact h f hx
  | _ => cases hk

/-- Settles O51: a fresh key by R158's rule with room, a fresh FAULT by R165's (it is never discarded), a waiting FAULT
by the merge at its place. -/
theorem requestsJoinOrMerge : Obligations.RequestsJoinOrMerge := by
  refine ⟨fun s e hfresh hroom => State.request_fresh hroom hfresh, fun s g hq hnone => ?newFault,
    fun s l r f g hq hentries hwaits => ⟨fun hreplaced => ?replaced, fun hkept => ?kept⟩⟩
  case newFault =>
    rw [State.request_txq]
    exact (hq.request_fault g).1 (Txq.holds_fault_eq_false hnone)
  case replaced =>
    rw [State.request_fault_waiting g hq hentries hwaits, mergeFault_of_replaced hreplaced]
    rfl
  case kept =>
    rw [State.request_fault_waiting g hq hentries hwaits, mergeFault_of_kept hkept, ← hentries]
    rfl

end Sys2Proof.Machine

/-!
Board supervision: KICK (R78), the expiry of the stable interval (R88), what a change of the board's registers leaves as
it was in the domain view (R9), and the statement about the first two.
-/

namespace Sys2Proof.Machine

/-! ### KICK (R78) -/

/-- R77: the watchdog is armed in FIRST and in RUNNING. -/
theorem Watchdog.isArmed_iff (w : Watchdog) : w.isArmed = true ↔ w ≠ .disarmed := by
  cases w <;> simp [Watchdog.isArmed]

theorem exec_kick_of_armed {s : State} (h : s.bsu.watchdog ≠ .disarmed) :
    exec .kick s = .next (s.putBsu { s.bsu with watchdog := .running (watchdogPeriod s.profile) }) :=
  if_pos ((Watchdog.isArmed_iff _).2 h)

theorem exec_kick_of_disarmed {s : State} (h : s.bsu.watchdog = .disarmed) : exec .kick s = .next s :=
  if_neg fun harmed => (Watchdog.isArmed_iff _).1 harmed h

/-! ### A change of the board's registers, seen in the domain view (R9) -/

theorem State.setBsu_sameDomain (s : State) (b : Bsu) : SameDomain s.dvu (s.setBsu b).dvu := by
  constructor <;> simp

theorem State.setBsu_sameTimers (s : State) (b : Bsu) : SameTimers s.dvu (s.setBsu b).dvu := by
  constructor <;> simp

/-! ### The stable interval (R88) -/

theorem exec_stableIntervalExpiry_of_running {s : State} (h : s.bsu.stable.isRunning = true) :
    exec .stableIntervalExpiry s = .next (s.setBsu { s.bsu with stable := .stopped, budget := 0 }) :=
  if_pos h

/-- Settles O18: KICK by whether the watchdog is armed; the stable interval's expiry by the frame of `State.setBsu`, the
own record following the budget. -/
theorem kickAndStableInterval : Obligations.KickAndStableInterval := by
  refine ⟨fun s => ⟨exec_kick_of_armed, exec_kick_of_disarmed⟩, fun s hrunning =>
    ⟨_, exec_stableIntervalExpiry_of_running hrunning, s.setBsu_bsu _, s.setBsu_follows _, s.setBsu_sameDomain _,
      s.setBsu_sameTimers _, ?otherBlocks⟩⟩
  case otherBlocks => simp

end Sys2Proof.Machine

/-!
The pins: what ALERT_N (R184), BRST_N (R69) and the line driver (R140, R142, R153) follow, an equivalence for each, and
the statement about the three.
-/

namespace Sys2Proof.Machine

/-! ### ALERT_N (R168, R184) -/

theorem State.logPending_iff (s : State) : s.logPending = true ↔ s.clg.records ≠ [] := by
  simp [State.logPending]

/-- R168: some slot holds a result that is not read. -/
theorem State.unreadResult_iff (s : State) :
    s.unreadResult = true ↔ ∃ i : SlotIx, (s.qru.slots[i]).state = .done := by
  simp only [State.unreadResult, anyTable_iff, beq_iff_eq]

theorem State.alertN_eq_low_iff (s : State) : s.alertN = .low ↔
    s.stc.station ≠ .start ∧ (s.clg.records ≠ [] ∨ ∃ i : SlotIx, (s.qru.slots[i]).state = .done) := by
  rw [← State.logPending_iff, ← State.unreadResult_iff, State.alertN, ite_eq_left_iff]
  simp only [reduceCtorEq, imp_false, not_not]

/-! ### BRST_N (R69) -/

theorem State.brstAsserted_eq_false_iff (s : State) :
    s.brstAsserted = false ↔ s.bsu.board = .runup ∨ s.bsu.board = .ready := by
  rw [State.brstAsserted, Bool.not_eq_false', State.running, boardRunning_iff]

/-! ### The line driver (R140, R142, R153) -/

/-- Past the last bit of the attempt nothing is driven. -/
theorem drivesLow_iff (f : Frame) (n : Nat) : drivesLow f n = true ↔ (lineBits f)[n / 2]? = some true := by
  rw [lineBits_drivesLow]
  cases (lineBits f)[n / 2]? <;> simp

theorem State.lineDriven_of_none {s : State} (h : s.lif.drive = .none) : s.lineDriven = false := by
  rw [State.lineDriven, h]

theorem State.lineDriven_of_brk {s : State} {n : Nat} (h : s.lif.drive = .brk n) : s.lineDriven = true := by
  rw [State.lineDriven, h]

theorem State.lineDriven_of_frame {s : State} {f : Frame} {n : Nat} (h : s.lif.drive = .frame f n) :
    s.lineDriven = drivesLow f n := by
  rw [State.lineDriven, h]

theorem State.lineDriven_iff (s : State) : s.lineDriven = true ↔ (∃ n, s.lif.drive = .brk n) ∨
    ∃ f n, s.lif.drive = .frame f n ∧ (lineBits f)[n / 2]? = some true := by
  cases h : s.lif.drive with
  | none => simp [State.lineDriven_of_none h]
  | brk n => simp [State.lineDriven_of_brk h]
  | frame f n => simp [State.lineDriven_of_frame h, drivesLow_iff]

/-- Settles O50: one equivalence for each of the three pins. -/
theorem pinsFollowLogSlotsAndBoard : Obligations.PinsFollowLogSlotsAndBoard :=
  fun s => ⟨s.alertN_eq_low_iff, s.brstAsserted_eq_false_iff, s.lineDriven_iff⟩

end Sys2Proof.Machine

/-!
What every step keeps, said once: the operations that the commands are made of, and that a predicate which each of them
keeps is kept by every command and by the passing of time. The seven invariants are instances.
-/

namespace Sys2Proof.Machine

/-! ### The rule of a frame's class -/

/-- R14 to R18, R21, R33, R43, R53, R98, R99, R172, R174: the rule of a frame, by its class. -/
def State.ruleFor (f : Frame) (s : State) : State :=
  match f.body with
  | .announce a => s.announceRule f.sender f.epoch a
  | .advance old new => s.advanceRule f.sender f.epoch old new
  | .rankTimeout k => s.rankTimeoutRule f.sender f.epoch k
  | .memberSilent i => s.memberSilentRule f.sender f.epoch i
  | .fault c => s.faultRule f.sender f.epoch c
  | .hold .hold => s.holdRule f.sender
  | .hold .resume => s.resumeRule f.sender
  | .ready r => s.readyRule f.sender f.epoch r
  | .query target item tag => s.queryRule f.sender target item tag
  | .reply r => s.replyRule f.sender r

/-- Every command that carries a frame is its arrival under the rule of its class. -/
theorem exec_of_frame {c : Instr} {f : Frame} (h : c.frame? = some f) (s : State) :
    exec c s = .next (s.arrive f (State.ruleFor f)) := by
  cases c <;> cases h <;> rfl

/-! ### The line's limits, seen from outside -/

theorem State.discardFrame_lineDominant (s : State) : s.discardFrame.lif.lineDominant = s.lif.lineDominant := by
  unfold State.discardFrame
  split <;> simp

theorem State.stopQuiet_station (s : State) : s.stopQuiet.stc.station = s.stc.station := by
  unfold State.stopQuiet
  split <;> simp

theorem State.passLong_station (s : State) : s.passLong.stc.station = s.stc.station := by
  unfold State.passLong
  dsimp only
  rw [State.stopQuiet_station]
  split <;> simp

theorem State.passLong_lineDominant (s : State) : s.passLong.lif.lineDominant = s.lif.lineDominant := by
  unfold State.passLong
  dsimp only
  rw [State.stopQuiet_lif, State.discardFrame_lineDominant]
  split <;> simp

theorem State.enterBlocked_lif (s : State) : s.enterBlocked.lif = s.lif.stopSending := by
  simp [State.enterBlocked]

theorem State.collide_lineDominant (s : State) : s.collide.lif.lineDominant = s.lif.lineDominant := by
  unfold State.collide
  dsimp only
  split
  · simp [State.enterBlocked_lif]
  · simp

/-- On a recessive line only a collision and the end of a break can be still to be told, and the line stays recessive. -/
theorem State.settleLine_recessive {s : State} (h : s.lif.lineDominant = false) :
    s.settleLine.lif.lineDominant = false := by
  have ht : s.tellLimits = s := State.tellLimits_told fun hd => by simp [h] at hd
  have hc : s.settleCollision.lif.lineDominant = false := by
    unfold State.settleCollision
    split
    · rw [State.collide_lineDominant, h]
    · exact h
  unfold State.settleLine State.settleBreak
  rw [ht]
  split
  · simpa using hc
  · exact hc

/-! ### The operations of the commands -/

/-- R80, R83: the board's registers as an input's fall finds them: as they were, or with the latch or the band at its low
level. -/
def Bsu.InputFell (b c : Bsu) : Prop := c = b ∨ c = { b with fltLatch := .low } ∨ c = { b with band := .low }

/-- What a request, a cancellation and an append keep, whenever they are made. -/
structure RequestKept (P : State → Prop) : Prop where
  request : ∀ s e, P s → P (s.request e)
  cancel  : ∀ s k, P s → P (s.cancel k)
  append  : ∀ s c sc o b d, P s → P (s.append c sc o b d)

/-- What the operations of the commands keep, each where a command makes it. -/
structure ExecKept (P : State → Prop) : Prop extends RequestKept P where
  port         : ∀ s p, P s → P (s.setLpt p)
  powerOn      : ∀ s, P s → P s.applyPowerOn
  stationReset : ∀ s, P s → P s.applyStationReset
  release      : ∀ s r, P s → s.stc.station = .start → P (s.setStc (s.stc.release r).startDelay)
  leaveStart   : ∀ s c pins, P s → s.stc.station = .start →
    P ((s.setStc { s.stc with straps := c }).leaveStart pins)
  found        : ∀ s, P s → s.stc.station = .listen → P s.found
  quietEnd     : ∀ s n, P s → s.stc.station = .isolated →
    P (s.setStc { s.stc with station := .listen, quiet := .stopped, listenIn := .running n }).holdRunning
  announced    : ∀ s n, P s → s.stc.station = .member → P (s.setDvu { s.dvu with announce := .running n })
  aged         : ∀ s, P s → P s.ageRecords
  gathered     : ∀ s, P s → s.stc.station = .member →
    P (s.setDvu { s.dvu with gatherTimer := .stopped, gatherExpired := true })
  settled      : ∀ s, P s → s.stc.station = .member → P (s.setDvu (s.dvu.startSettle s.profile))
  holdLimit    : ∀ s, P s → s.stc.station = .member → P (s.setDvu { s.dvu with holdLimit := .expired })
  evalRelease  : ∀ s, P s → P s.evalRelease
  holdDown     : ∀ s, P s → P (s.setBsu { s.bsu with holdDown := .expired })
  recovered    : ∀ s, P s → s.bsu.board = .recover → P (s.setBsu { s.bsu with board := .held, recovery := .stopped })
  cleared      : ∀ s, P s → s.bsu.board = .excluded → P (s.setBsu { s.bsu with board := .held, budget := 0 })
  stable       : ∀ s, P s → s.bsu.stable.isRunning = true → P (s.setBsu { s.bsu with stable := .stopped, budget := 0 })
  brdyRise     : ∀ s n, P s → s.bsu.board = .runup → P (s.setBsu { s.bsu with board := .ready, stable := .running n })
  brdyFall     : ∀ s, P s → s.bsu.board = .ready → P (s.setBsu { s.bsu with board := .runup, stable := .stopped })
  kick         : ∀ s n, P s → s.bsu.watchdog.isArmed = true → P (s.putBsu { s.bsu with watchdog := .running n })
  fltRise      : ∀ s, P s → P (s.putBsu { s.bsu with fltLatch := .high })
  bandNormal   : ∀ s, P s → P (s.putBsu { s.bsu with band := .normal })
  fault        : ∀ s b c sc, P s → s.bsu.InputFell b → P ((s.putBsu b).localFault c sc)
  longRun      : ∀ s n, P s → s.lif.lineDominant = true → Config.longHalves < n → n ≤ max s.lif.runLength 19 →
    P (s.setLif { s.lif with runClass := .long, runLength := n })
  stuckRun     : ∀ s, P s → s.lif.lineDominant = true →
    P (s.setLif { s.lif with runClass := .stuck, runLength := Config.stuckHalves })
  stopQuiet    : ∀ s, P s → P s.stopQuiet
  restartQuiet : ∀ s, P s → P s.restartQuiet
  isolated     : ∀ s d, P s → s.stc.station = .listen ∨ s.stc.station = .member → P (s.enterIsolated d)
  blocked      : ∀ s, P s → s.stc.station = .member → P s.enterBlocked
  endAttempt   : ∀ s, P s → P s.endAttempt
  exempt       : ∀ s, P s → P s.exemptFrame
  discard      : ∀ s, P s → P s.discardFrame
  collisions   : ∀ s n, P s → P (s.setLif { s.lif with collisions := n })
  driveFaults  : ∀ s n, P s → P (s.setLif { s.lif with driveFaults := n })
  releaseBreak : ∀ s, P s → s.lif.drive.isFrame = false → P s.releaseBreak
  breakBegun   : ∀ s, P s → s.lif.drive.isFrame = false → P (s.setLif { s.lif with drive := .brk 0, joinWindow := false })
  attempt      : ∀ s e, P s → s.offered = some e → s.lif.mayBegin = true → P (s.beginAttempt e)
  beginRun     : ∀ s, P s → s.lif.lineDominant = false → P s.beginRun
  endRun       : ∀ s, P s → P s.endRun
  breakRewind  : ∀ s, P s → s.stc.station = .member → P s.breakRewind
  listenAgain  : ∀ s n, P s → s.stc.station = .listen → P (s.setStc { s.stc with listenIn := .running n })
  frameDone    : ∀ s, P s → P s.frameDone
  adopt        : ∀ s i e a, P s → s.stc.station = .listen → announceConsistent a = true → i ≠ s.self →
    P (s.adopt i e a)
  hear         : ∀ s i, P s → P (s.hear i)
  ownDone      : ∀ s, P s → s.stc.station = .member → s.lif.drive.isFrame = true → P s.ownDone
  rule         : ∀ s f, P s → s.stc.station = .member → frameValid f = true → P (State.ruleFor f s)
  expire       : ∀ s i, P s → P (s.updateSlot i Slot.expire)
  ask          : ∀ s i t it, P s → P (s.ask i t it)
  deliver      : ∀ s m, P s → P (s.deliver m)

/-! ### Requests made of an event -/

namespace RequestKept

variable {P : State → Prop} (k : RequestKept P) {s : State}
include k

theorem evalAdvance (h : P s) : P s.evalAdvance := by
  unfold State.evalAdvance
  split
  · exact k.request _ _ h
  · exact h

theorem settleTerms (h : P s) (d : Dvu) : P (s.settleTerms d) := by
  unfold State.settleTerms
  split
  · exact k.evalAdvance h
  · exact h

theorem requestLapses (h : P s) : P s.requestLapses :=
  List.foldlRecOn stationIds _ h fun t ht i _ => by
    split
    · exact k.request _ _ ht
    · exact ht

theorem reRequestResume (h : P s) : P s.reRequestResume := by
  unfold State.reRequestResume
  split
  · exact k.request _ _ h
  · exact h

theorem settleAction (h : P s) : P s.settleAction := by
  unfold State.settleAction
  split
  · split
    · exact k.request _ _ h
    · exact k.request _ _ (k.append _ _ _ _ _ _ h)
  · exact h

theorem holdRequest (h : P s) (a : HoldAction) : P (s.holdRequest a) := by
  unfold State.holdRequest
  split
  · exact k.request _ _ h
  · exact h

theorem applyRemembered (h : P s) (r : Option Remembered) (b : Option Rank) : P (s.applyRemembered r b) := by
  unfold State.applyRemembered
  split
  · split
    · split
      · exact h
      · exact k.request _ _ h
    · exact k.request _ _ h
  · exact k.request _ _ h
  · exact h

theorem cancelFor (h : P s) (f : Frame) : P (s.cancelFor f) := by
  unfold State.cancelFor
  dsimp only
  split
  · exact k.cancel _ _ (k.cancel _ _ h)
  · exact k.cancel _ _ h

end RequestKept

namespace ExecKept

variable {P : State → Prop} (k : ExecKept P) {s : State}
include k

/-! ### The board -/

theorem strapFault {b : Bsu} (h : P s) (hb : s.bsu.InputFell b) (c : Cause) : P ((s.putBsu b).strapFault c) :=
  k.fault _ _ _ _ h hb

theorem resetRequest (h : P s) (scope : Byte) : P (s.resetRequest scope) := by
  unfold State.resetRequest
  split
  · split
    · exact k.fault _ s.bsu _ _ h (.inl rfl)
    · exact h
  · exact h

theorem clearExclusion (h : P s) : P s.clearExclusion := by
  unfold State.clearExclusion
  split
  · next he => exact k.settleTerms (k.evalRelease _ (k.cleared _ h he)) _
  · exact h

/-! ### The line -/

theorem passLong (h : P s) (hd : s.lif.lineDominant = true) : P s.passLong := by
  have h1 : P (s.setLif { s.lif with runClass := .long, runLength := max s.lif.runLength (Config.longHalves + 1) }) :=
    k.longRun _ _ h hd (by omega) le_rfl
  unfold State.passLong
  dsimp only
  split
  · exact k.stopQuiet _ (k.discard _ (k.endAttempt _ (k.exempt _ h1)))
  · exact k.stopQuiet _ (k.discard _ h1)

theorem stuckTrigger (h : P s) : P s.stuckTrigger := by
  unfold State.stuckTrigger
  split
  · next hst => exact k.isolated _ _ h (.inl hst)
  · next hst => exact k.isolated _ _ h (.inr hst)
  all_goals exact h

theorem passStuck (h : P s) (hd : s.lif.lineDominant = true) : P s.passStuck := by
  unfold State.passStuck
  dsimp only
  split
  · exact k.stuckTrigger (k.stuckRun _ (k.passLong h hd) (by rw [State.passLong_lineDominant, hd]))
  · exact k.stuckTrigger (k.stuckRun _ h hd)

theorem reachLimits (h : P s) (hd : s.lif.lineDominant = true) : P s.reachLimits := by
  unfold State.reachLimits
  split
  · split
    · exact h
    · exact k.passStuck h hd
  · split
    · exact k.passLong h hd
    · exact h

theorem tellLimits (h : P s) : P s.tellLimits := by
  unfold State.tellLimits
  split
  · next hg => exact k.reachLimits h (by simp_all)
  · exact h

theorem collide (h : P s) : P s.collide := by
  have h2 := k.collisions _ (bumpCollisions s.endAttempt.lif.collisions) (k.endAttempt _ h)
  unfold State.collide
  dsimp only
  split
  · next hg => exact k.blocked _ h2 (by simpa using (State.isMember_iff s).1 hg.2)
  · exact h2

theorem settleCollision (h : P s) : P s.settleCollision := by
  unfold State.settleCollision
  split
  · exact k.collide h
  · exact h

theorem settleBreak (h : P s) : P s.settleBreak := by
  unfold State.settleBreak
  split
  · next hb =>
    obtain ⟨n, hn, -⟩ := s.lif.breakDue_iff.1 hb
    exact k.releaseBreak _ h (by rw [hn]; rfl)
  · exact h

theorem settleLine (h : P s) : P s.settleLine := k.settleBreak (k.settleCollision (k.tellLimits h))

theorem loseArbitration (h : P s) : P s.loseArbitration := by
  unfold State.loseArbitration
  split
  · exact k.endAttempt _ h
  · exact h

theorem stopFaulty (h : P s) : P s.stopFaulty := by
  unfold State.stopFaulty
  dsimp only
  split
  · exact k.driveFaults _ _ (k.endAttempt _ (k.exempt _ h))
  · next hf => exact k.driveFaults _ _ (k.releaseBreak _ h (by simpa using hf))

theorem driveTrigger (h : P s) : P s.driveTrigger := by
  unfold State.driveTrigger
  split
  · next hst => exact k.isolated _ _ h (.inl hst)
  · next hst => exact k.isolated _ _ h (.inr hst)
  all_goals exact k.driveFaults _ _ h

theorem failDrive (h : P s) : P s.failDrive := by
  unfold State.failDrive
  split
  · exact h
  · split
    · exact k.driveTrigger (k.stopFaulty h)
    · exact k.stopFaulty h

theorem startBreak (h : P s) : P s.startBreak := by
  unfold State.startBreak
  dsimp only
  split
  · exact k.breakBegun _ (k.endAttempt _ (k.exempt _ h)) (by simp)
  · next hf => exact k.breakBegun _ h (by simpa using hf)

theorem emergency (h : P s) : P s.emergency := by
  have hr : P s.recordEmergency := k.append _ _ _ _ _ _ h
  unfold State.emergency
  split
  · exact h
  · split
    · exact h
    · exact hr
    all_goals exact k.startBreak hr

theorem breakEnd (h : P s) : P s.breakEnd := by
  unfold State.breakEnd
  split
  · next hst => exact k.breakRewind _ h hst
  · next hst => exact k.listenAgain _ _ h hst
  all_goals exact h

theorem classifyRun (h : P s) : P s.classifyRun := by
  have he := k.endRun _ h
  have hq := k.restartQuiet _ he
  unfold State.classifyRun
  split
  · exact k.settleCollision he
  · split
    · exact hq
    · split
      · exact k.breakEnd hq
      · exact hq

theorem receptionFault (h : P s) : P s.receptionFault := by
  have ht := k.tellLimits h
  unfold State.receptionFault State.discardReceived
  split
  · exact k.discard _ ht
  · exact ht

/-! ### Arrivals -/

theorem applyArrival {f : Frame} (h : P s) (hst : s.stc.station = .member) (hv : frameValid f = true) (own : Bool)
    (hown : own = true → s.lif.drive.isFrame = true) : P (s.applyArrival f own (State.ruleFor f)) := by
  have hheard := k.hear _ f.sender h
  unfold State.applyArrival
  cases own with
  | true =>
    have hremoved := k.ownDone _ hheard (by simpa using hst) (by simpa using hown rfl)
    exact k.applyRemembered (k.settleTerms (k.rule _ _ (k.cancelFor hremoved f) (by simpa using hst) hv) _) _ _
  | false => exact k.settleTerms (k.rule _ _ (k.cancelFor hheard f) (by simpa using hst) hv) _

theorem arrive {f : Frame} (h : P s) : P (s.arrive f (State.ruleFor f)) := by
  refine State.arrive_cases s f _ (k.receptionFault h) fun hv => ?_
  have hs := k.settleCollision h
  have hd := k.frameDone _ hs
  refine State.arriveValid_cases _ f _ hs (fun _ => hd) ?adopted ?own ?blocked ?other
  case adopted =>
    intro a ha hst had
    have hc : announceConsistent a = true := by simpa [frameValid, ha] using hv
    have hi : f.sender ≠ s.settleCollision.frameDone.self := by
      unfold State.adoptable at had
      simpa using (Bool.and_eq_true_iff.1 had).1
    exact k.adopt _ _ _ _ hd (by simpa using hst) hc hi
  case own =>
    intro hst hdrove
    exact k.applyArrival hd (by simpa using hst) hv true fun _ => by simpa using Lif.drove_isFrame hdrove
  case blocked => exact fun hst _ _ => k.blocked _ hd (by simpa using hst)
  case other => exact fun hst _ _ => k.applyArrival hd (by simpa using hst) hv false (by simp)

/-! ### The local port -/

theorem take (h : P s) {effect : State → State} (heffect : P (effect s)) (c : Instr) (response : List Byte)
    (mark : Option Mark) : P (s.take c effect response mark) := by
  unfold State.take
  split
  · exact k.port _ _ heffect
  · exact h

theorem queryEffect (h : P s) (b c : Byte) : P (s.queryEffect b c) := by
  unfold State.queryEffect
  split
  · exact h
  · exact k.ask _ _ _ _ h

theorem shiftOut (h : P s) (n : Nat) : P (s.shiftOut n) := by
  unfold State.shiftOut
  split
  · exact k.port _ _ h
  · exact h

theorem endTransaction (h : P s) : P s.endTransaction := by
  unfold State.endTransaction
  dsimp only
  split
  · exact k.port _ _ (k.deliver _ _ h)
  · exact k.port _ _ h

/-! ### The commands -/

omit k in
/-- A command under a guard keeps what its effect keeps. -/
theorem guarded {p : Prop} [Decidable p] {t : State} (h : P s) (ht : p → P t) :
    ∃ u, (if p then .next t else .next s : Result) = .next u ∧ P u := by
  by_cases hp : p
  · exact ⟨t, if_pos hp, ht hp⟩
  · exact ⟨s, if_neg hp, h⟩

/-- Every command has a next state, and keeps what its operations keep. -/
theorem exec (h : P s) (c : Instr) : ∃ t, Machine.exec c s = .next t ∧ P t := by
  have carried {f : Frame} (hf : c.frame? = some f) : ∃ t, Machine.exec c s = .next t ∧ P t :=
    ⟨_, exec_of_frame hf s, k.arrive h⟩
  cases c with
  | powerOnReset => exact ⟨_, rfl, k.powerOn _ h⟩
  | stationReset => exact ⟨_, rfl, k.stationReset _ h⟩
  | resetRelease source => exact guarded h fun g => k.release _ _ h g.1
  | startUpDelayExpiry pins => exact guarded h fun g => k.leaveStart _ _ _ h g.1
  | listenInExpiry => exact guarded h fun g => k.found _ h g.1
  | quietTimerExpiry => exact guarded h fun g => k.quietEnd _ _ h g.1
  | announceTimerExpiry =>
    exact guarded h fun g => k.evalAdvance (k.reRequestResume (k.requestLapses (k.aged _ (k.request _ _
      (k.announced _ _ h ((State.isMember_iff s).1 g.1))))))
  | gatherTimerExpiry => exact guarded h fun g => k.evalAdvance (k.gathered _ h ((State.isMember_iff s).1 g.1))
  | rankSettleExpiry => exact guarded h fun g => k.settleAction (k.settled _ h ((State.isMember_iff s).1 g.1))
  | holdLimitExpiry => exact guarded h fun g => k.request _ _ (k.holdLimit _ h ((State.isMember_iff s).1 g.1))
  | holdDownExpiry => exact guarded h fun _ => k.settleTerms (k.evalRelease _ (k.holdDown _ h)) _
  | recoveryExpiry => exact guarded h fun g => k.settleTerms (k.evalRelease _ (k.recovered _ h g.1)) _
  | watchdogExpiry => exact guarded h fun _ => k.strapFault h (.inl rfl) .wdog
  | stableIntervalExpiry => exact guarded h fun g => k.stable _ h g
  | queryTimerExpiry slot => exact guarded h fun _ => k.expire _ _ h
  | brdyRise => exact guarded h fun g => k.settleTerms (k.request _ _ (k.brdyRise _ _ h g)) _
  | brdyFall => exact guarded h fun g => k.settleTerms (k.cancel _ _ (k.brdyFall _ h g)) _
  | kick => exact guarded h fun g => k.kick _ _ h g
  | fltNFall => exact guarded h fun _ => k.strapFault h (.inr (.inl rfl)) .boardFlt
  | fltNRise =>
    refine guarded h fun _ => ?_
    split
    · exact k.settleTerms (k.evalRelease _ (k.fltRise _ h)) _
    · exact k.fltRise _ h
  | supplyBandLow => exact guarded h fun _ => k.strapFault h (.inr (.inr rfl)) .supply
  | supplyBandNormal => exact guarded h fun _ => k.settleTerms (k.evalRelease _ (k.bandNormal _ h)) _
  | emrgNFall => exact guarded h fun _ => k.emergency (k.settleLine h)
  | breakDriveEnd =>
    refine guarded h fun g => k.releaseBreak _ h ?_
    cases hd : s.lif.drive with
    | frame f n => rw [hd] at g; cases g
    | _ => rfl
  | attemptStart =>
    change ∃ t, execAttemptStart s = .next t ∧ P t
    unfold execAttemptStart
    split
    · next e he => exact guarded h fun g => k.attempt _ _ h he g
    · exact ⟨_, rfl, h⟩
  | lostArbitration => exact ⟨_, rfl, k.loseArbitration (k.tellLimits h)⟩
  | collisionAfterArbitration => exact guarded h fun _ => k.collide h
  | driveFault => exact ⟨_, rfl, k.failDrive (k.tellLimits h)⟩
  | longRunStart => exact guarded h fun g => k.passLong h g.2.1
  | dominantRunEnd => exact guarded h fun g => k.classifyRun (k.reachLimits h g.2)
  | stuckLine => exact guarded h fun g => k.passStuck h g.2.1
  | truncation => exact ⟨_, rfl, k.receptionFault h⟩
  | receptionError kind => exact ⟨_, rfl, k.receptionFault h⟩
  | transactionEnd more =>
    change ∃ t, execTransactionEnd more s = .next t ∧ P t
    unfold execTransactionEnd
    split
    · exact ⟨_, rfl, h⟩
    · exact ⟨_, rfl, k.endTransaction (k.shiftOut h more)⟩
    · exact ⟨_, rfl, k.port _ _ h⟩
  | holdReq => exact ⟨_, rfl, k.take h (k.holdRequest h _) _ _ _⟩
  | resumeReq => exact ⟨_, rfl, k.take h (k.holdRequest h _) _ _ _⟩
  | resetReq scope => exact ⟨_, rfl, k.take h (k.resetRequest h scope) _ _ _⟩
  | queryReq target item => exact ⟨_, rfl, k.take h (k.queryEffect h target item) _ _ _⟩
  | clearExcl => exact ⟨_, rfl, k.take h (k.clearExclusion h) _ _ _⟩
  | getStatus | getMember | logTake | logPeek | queryTake | unknownCommand => exact ⟨_, rfl, k.take h h _ _ _⟩
  | dominantRunStart => exact guarded h fun g => k.beginRun _ (k.settleLine h) (State.settleLine_recessive g.2)
  | transactionStart => exact guarded h fun _ => k.port _ _ h
  | _ => exact carried rfl

/-- What a command keeps is kept by the state it leads to. -/
theorem exec_next (h : P s) {c : Instr} {t : State} (hexec : Machine.exec c s = .next t) : P t := by
  obtain ⟨u, hu, hp⟩ := k.exec h c
  cases hu.symm.trans hexec
  exact hp

end ExecKept

/-! ### The step -/

/-- What the commands keep and what the passing of time keeps. -/
structure StepKept (P : State → Prop) : Prop extends ExecKept P where
  pending : ∀ s q, P s → P (s.setPending q)
  half    : ∀ s, P s → P (s.setLif s.lif.tick)
  phase   : ∀ s n, P s → P (s.setStc { s.stc with msPhase := n })
  ms      : ∀ s, P s → P s.tickMs

namespace StepKept

variable {P : State → Prop} (k : StepKept P) {s t : State}
include k

theorem passTime (h : P s) : P s.passTime := by
  unfold State.passTime State.tickHalf
  split
  · split
    · exact h
    · exact k.ms _ h
  · have h1 := k.pending _ s.lif.sampled (k.half _ h)
    dsimp only
    split
    · exact k.phase _ _ h1
    · exact k.ms _ (k.phase _ _ h1)

/-- What the operations of the commands and the passing of time keep, every step keeps. -/
theorem step (h : P s) (hstep : Machine.step s = .next t) : P t := by
  unfold Machine.step State.idle at hstep
  split at hstep
  · split at hstep <;> cases hstep
    · exact k.passTime h
    · exact k.pending _ _ h
  · exact k.exec_next (k.pending _ _ h) hstep

end StepKept
end Sys2Proof.Machine

/-!
Every command has a next state and leaves the queue of waiting commands: the frame of the shared operations on that queue,
and the two statements about the step itself.
-/

namespace Sys2Proof.Machine

/-! ### The rule of a frame, by class -/

/-- What holds of the outcome of each class's rule holds of the outcome of the frame's rule. -/
theorem State.ruleFor_cases {P : State → Prop} (s : State) (f : Frame)
    (announce : ∀ a, f.body = .announce a → P (s.announceRule f.sender f.epoch a))
    (advance : ∀ o n, f.body = .advance o n → P (s.advanceRule f.sender f.epoch o n))
    (rankTimeout : ∀ k, f.body = .rankTimeout k → P (s.rankTimeoutRule f.sender f.epoch k))
    (memberSilent : ∀ i, f.body = .memberSilent i → P (s.memberSilentRule f.sender f.epoch i))
    (fault : ∀ c, f.body = .fault c → P (s.faultRule f.sender f.epoch c))
    (hold : f.body = .hold .hold → P (s.holdRule f.sender))
    (resume : f.body = .hold .resume → P (s.resumeRule f.sender))
    (ready : ∀ r, f.body = .ready r → P (s.readyRule f.sender f.epoch r))
    (query : ∀ i item tag, f.body = .query i item tag → P (s.queryRule f.sender i item tag))
    (reply : ∀ r, f.body = .reply r → P (s.replyRule f.sender r)) : P (State.ruleFor f s) := by
  unfold State.ruleFor
  split
  · exact announce _ ‹_›
  · exact advance _ _ ‹_›
  · exact rankTimeout _ ‹_›
  · exact memberSilent _ ‹_›
  · exact fault _ ‹_›
  · exact hold ‹_›
  · exact resume ‹_›
  · exact ready _ ‹_›
  · exact query _ _ _ ‹_›
  · exact reply _ ‹_›

@[simp] theorem State.ruleFor_stc (s : State) (f : Frame) : (State.ruleFor f s).stc = s.stc := by
  apply State.ruleFor_cases (P := fun t => t.stc = s.stc) <;> simp

@[simp] theorem State.ruleFor_lif (s : State) (f : Frame) : (State.ruleFor f s).lif = s.lif := by
  apply State.ruleFor_cases (P := fun t => t.lif = s.lif) <;> simp

@[simp] theorem State.ruleFor_pending (s : State) (f : Frame) : (State.ruleFor f s).pending = s.pending := by
  apply State.ruleFor_cases (P := fun t => t.pending = s.pending) <;> simp

/-! ### The queue of waiting commands -/

theorem State.enterIsolated_pending (s : State) (d : Bool) : (s.enterIsolated d).pending = s.pending := by
  unfold State.enterIsolated
  dsimp only
  split <;> simp

theorem State.enterBlocked_pending (s : State) : s.enterBlocked.pending = s.pending := s.enterBlocked_entered.pending

/-- No operation of a command puts another command in the queue, or takes one from it. -/
theorem pending_execKept (q : List Instr) : ExecKept (fun s => s.pending = q) := by
  constructor
  case toRequestKept => constructor <;> simp
  case powerOn | stationReset => exact fun _ h => h
  all_goals
    intros
    simpa [State.leaveStart, State.enterIsolated_pending, State.enterBlocked_pending, State.beginRun, State.breakRewind]

/-- Settles O2: `ExecKept.exec` of the queue of waiting commands. -/
theorem everyCommandAnswersAndKeepsTheQueue : Obligations.EveryCommandAnswersAndKeepsTheQueue :=
  fun c s => (pending_execKept s.pending).exec rfl c

/-- Settles O1: the step on a queue that is not empty, by definition. -/
theorem stepTakesTheCommandAtTheFront : Obligations.StepTakesTheCommandAtTheFront := fun _ _ _ => rfl

end Sys2Proof.Machine

/-!
The Transmit Queue and the attempt in flight: every operation keeps the queue sound and its mark in step with the line
(R144, R146, R147, R157).
-/

namespace Sys2Proof.Machine

/-! ### When the mark and the attempt go together -/

namespace QueueSound

variable {s t : State}

/-- A queue that keeps its mark beside a line that keeps its attempt, at a station that does not leave MEMBER. -/
theorem of_kept (h : QueueSound s) (hq : TxqKept s.txq t.txq) (hf : t.lif.drive.isFrame = s.lif.drive.isFrame)
    (hm : t.lif.mismatch = s.lif.mismatch) (hst : s.stc.station = .member → t.stc.station = .member) :
    QueueSound t := by
  have ha : t.lif.attempting = s.lif.attempting := by rw [Lif.attempting, Lif.attempting, hf, hm]
  exact ⟨hq.sound h.queue, by rw [ha, hq.inFlight, h.flight], fun hat => hst (h.member (ha ▸ hat)),
    fun hmis => by rw [hf, h.stopped (hm ▸ hmis)]⟩

/-- A line that keeps its attempt, and the queue and the station as they were. -/
theorem of_same (h : QueueSound s) (hq : t.txq = s.txq) (hf : t.lif.drive.isFrame = s.lif.drive.isFrame)
    (hm : t.lif.mismatch = s.lif.mismatch) (hst : t.stc.station = s.stc.station) : QueueSound t :=
  h.of_kept (hq ▸ .refl _) hf hm fun hmem => hst ▸ hmem

/-- No attempt, and no mark. -/
theorem of_quiet (hq : t.txq.Sound) (hn : t.txq.inFlight = none) (ha : t.lif.attempting = false) : QueueSound t :=
  ⟨hq, by simp [ha, hn], fun h => by simp [ha] at h, fun h => by simp [Lif.attempting, h] at ha⟩

theorem attempting_eq_false (h : QueueSound s) (hst : s.stc.station ≠ .member) : s.lif.attempting = false := by
  simpa using mt h.member hst

theorem inFlight_eq_none (h : QueueSound s) (ha : s.lif.attempting = false) : s.txq.inFlight = none := by
  simpa [ha] using h.flight

/-- An attempt in flight has the frame being driven or a mismatch, not both. -/
theorem mismatch_of_isFrame (h : QueueSound s) (hf : s.lif.drive.isFrame = true) : s.lif.mismatch = false := by
  cases hm : s.lif.mismatch with
  | false => rfl
  | true => simp [h.stopped hm] at hf

/-- The end of an attempt leaves none, and no mark. -/
theorem endAttempt (h : QueueSound s) : QueueSound s.endAttempt :=
  of_quiet (by simpa using h.queue.fail) (by simp) s.endAttempt_attempting

end QueueSound

/-! ### The departures -/

theorem State.enterIsolated_quiet {s : State} (h : QueueSound s) (d : Bool) : QueueSound (s.enterIsolated d) := by
  unfold State.enterIsolated
  dsimp only
  split
  · refine .of_quiet ((kept_holdRunning _).sound ?_) ?_ ?_
    · simpa using h.queue.fail
    · simp [State.holdRunning_inFlight]
    · simp [Lif.attempting]
  · exact .of_quiet (by simpa using h.queue.fail) (by simp) (by simp [Lif.attempting])

theorem State.enterBlocked_quiet (s : State) : QueueSound s.enterBlocked := by
  have hq : s.enterBlocked.txq = Txq.reset := State.blockBoard_txq (by simp)
  refine .of_quiet (hq ▸ .reset) (by rw [hq]; rfl) ?_
  simp [State.enterBlocked_lif, Lif.attempting]

/-! ### Attempts -/

theorem State.offered_member {s : State} {e : Entry} (h : s.offered = some e) : s.stc.station = .member := by
  unfold State.offered at h
  split at h
  · next hm => exact (State.isMember_iff s).1 hm
  · cases h

theorem State.offered_mem {s : State} {e : Entry} (h : s.offered = some e) : e ∈ s.txq.entries := by
  unfold State.offered at h
  split at h
  · exact ((s.txq.mem_waiting e).1 (firstInOrder_mem h)).1
  · cases h

theorem State.beginAttempt_queue {s : State} (h : QueueSound s) {e : Entry} (he : s.offered = some e)
    (hb : s.lif.mayBegin = true) : QueueSound (s.beginAttempt e) := by
  obtain ⟨-, hm, -⟩ := (Lif.mayBegin_iff _).1 hb
  refine ⟨⟨?_, ?_, ?_⟩, ?_, ?_, ?_⟩
  · simpa using h.queue.capacity
  · simpa using h.queue.keys
  · simpa using ⟨e, State.offered_mem he, rfl⟩
  · simp [Lif.attempting, Drive.isFrame]
  · simpa using fun _ => State.offered_member he
  · simp [hm]

/-- R147: half a bit time ends no attempt: at a mismatch its frame stops, and the mismatch awaits its class. -/
theorem Lif.tick_attempting (l : Lif) : l.tick.attempting = l.attempting := by
  unfold Lif.attempting Lif.tick
  cases hd : l.drive with
  | none => simp [Drive.tick, Drive.compare, Drive.isFrame]
  | brk n =>
    simp only [Drive.tick, Drive.compare, Drive.isFrame]
    split <;> simp
  | frame f n =>
    by_cases hmis : (Drive.frame f n).compare l.lineDominant = .mismatch
    · simp [hmis, Drive.isFrame]
    · simp [Drive.tick, Drive.isFrame, hmis]

theorem Lif.tick_stopped {l : Lif} (h : l.mismatch = true → l.drive.isFrame = false) :
    l.tick.mismatch = true → l.tick.drive.isFrame = false := by
  unfold Lif.tick
  cases hd : l.drive with
  | none => simp [Drive.tick, Drive.isFrame]
  | brk n => simp [Drive.tick, Drive.isFrame]
  | frame f n =>
    have hm : l.mismatch = false := by
      by_contra hc
      simpa [hd, Drive.isFrame] using h (by simpa using hc)
    simp only [hm, Bool.false_or, Drive.tick, beq_iff_eq]
    intro hmis
    simp [hmis, Drive.isFrame]

/-! ### Every operation -/

theorem kept_ruleFor (s : State) (f : Frame) : TxqKept s.txq (State.ruleFor f s).txq := by
  apply State.ruleFor_cases (P := fun t => TxqKept s.txq t.txq)
  · exact fun _ _ => kept_announceRule ..
  · exact fun _ _ _ => kept_advanceRule ..
  · exact fun _ _ => kept_rankTimeoutRule ..
  · exact fun _ _ => kept_memberSilentRule ..
  · exact fun _ _ => kept_faultRule ..
  · exact fun _ => kept_holdRule ..
  · exact fun _ => kept_resumeRule ..
  · exact fun _ _ => kept_readyRule ..
  · exact fun _ _ _ _ => kept_queryRule ..
  · exact fun _ _ => kept_replyRule ..

theorem kept_ask (s : State) (i : SlotIx) (t : StationId) (it : Item) : TxqKept s.txq (s.ask i t it).txq := by
  unfold State.ask
  dsimp only
  split
  · exact .refl _
  · simpa using TxqKept.request s.txq _

theorem State.restartQuiet_station (s : State) : s.restartQuiet.stc.station = s.stc.station := by
  unfold State.restartQuiet
  split <;> simp

theorem Stc.startDelay_station (c : Stc) (r : ResetSource) : (c.release r).startDelay.station = c.station := by
  unfold Stc.startDelay
  cases r <;> split <;> rfl

theorem queueSound_requestKept : RequestKept QueueSound where
  request s e h := h.of_kept (by simpa using .request s.txq e) (by simp) (by simp) (by simp)
  cancel s k h := h.of_kept (by simpa using .cancel s.txq k) (by simp) (by simp) (by simp)
  append _ _ _ _ _ _ h := h.of_same (by simp) (by simp) (by simp) (by simp)

theorem queueSound_execKept : ExecKept QueueSound := by
  constructor
  case powerOn | stationReset => exact fun _ _ => .of_quiet .reset rfl rfl
  case toRequestKept => exact queueSound_requestKept
  case leaveStart =>
    intro s c pins h hst
    have hn := h.inFlight_eq_none (h.attempting_eq_false (by simp [hst]))
    exact .of_quiet (by simpa [State.leaveStart] using h.queue) (by simpa [State.leaveStart] using hn) rfl
  case found => exact fun s h hst => h.of_kept (kept_found s) (by simp) (by simp) (by simp [hst])
  case quietEnd =>
    intro s n h hst
    refine h.of_kept ?_ (by simp) (by simp) (by simp [hst])
    exact kept_holdRunning (s.setStc { s.stc with station := .listen, quiet := .stopped, listenIn := .running n })
  case fault =>
    exact fun s b c sc h _ => h.of_kept (kept_localFault (s.putBsu b) c sc) (by simp) (by simp) (by simp)
  case isolated => exact fun s d h _ => State.enterIsolated_quiet h d
  case blocked => exact fun s _ _ => s.enterBlocked_quiet
  case endAttempt => exact fun s h => h.endAttempt
  case releaseBreak => exact fun s h hf => h.of_same rfl hf.symm rfl rfl
  case breakBegun => exact fun s h hf => h.of_same rfl hf.symm rfl rfl
  case attempt => exact fun s e h he hb => State.beginAttempt_queue h he hb
  case breakRewind =>
    intro s h hst
    exact h.of_kept (t := s.breakRewind) (kept_rewind ..) (by simp [State.breakRewind]) (by simp [State.breakRewind])
      (by simp [State.breakRewind])
  case adopt => exact fun s i e a h hst _ _ => h.of_kept (kept_adopt s i e a) (by simp) (by simp) (by simp [hst])
  case ownDone =>
    exact fun s h _ hf => .of_quiet (by simpa using h.queue.arrived) (by simp)
      (by simp [Lif.attempting, Drive.isFrame, h.mismatch_of_isFrame hf])
  case rule => exact fun s f h _ _ => h.of_kept (kept_ruleFor s f) (by simp) (by simp) (by simp)
  case ask => exact fun s i t it h => h.of_kept (kept_ask s i t it) (by simp) (by simp) (by simp)
  all_goals
    intros
    refine QueueSound.of_same ‹QueueSound _› ?_ ?_ ?_ ?_
  all_goals simp [State.beginRun, State.endRun, State.stopQuiet_station, State.restartQuiet_station, Stc.startDelay_station]

/-- R147: time ends no attempt and marks no entry. -/
theorem queueSound_stepKept : StepKept QueueSound where
  toExecKept := queueSound_execKept
  pending _ _ h := h.of_same rfl rfl rfl rfl
  half s h := ⟨h.queue, (Lif.tick_attempting s.lif).symm ▸ h.flight, fun ha => h.member (Lif.tick_attempting s.lif ▸ ha),
    Lif.tick_stopped h.stopped⟩
  phase _ _ h := h.of_same rfl rfl rfl rfl
  ms _ h := h.of_same rfl rfl rfl rfl

/-- Settles O56: `StepKept.step` of the queue's soundness. -/
theorem everyStepKeepsTheQueueSound : Obligations.EveryStepKeepsTheQueueSound :=
  fun _ _ h hstep => queueSound_stepKept.step h hstep

end Sys2Proof.Machine

/-!
The Cause Log, the timers, the query slots and the line: every step keeps the log's numbering (R179), the timers in their
own station states (R1, R40, R113, R116, R121), the query timers in WAITING (R168, R173) and the line's counts in step
with its level (R142, R143, R152).
-/

namespace Sys2Proof.Machine

/-! ### The Cause Log -/

theorem LogSound.of_same {s t : State} (h : LogSound s) (hc : t.clg = s.clg) : LogSound t := by
  rw [LogSound, hc]
  exact h

theorem ruleFor_log {s : State} (h : s.clg.Sound) (f : Frame) : (State.ruleFor f s).clg.Sound := by
  apply State.ruleFor_cases (P := fun t => t.clg.Sound)
  case announce => exact fun _ _ => announceRule_log h ..
  case fault => exact fun _ _ => faultRule_log h ..
  all_goals simp [h]

theorem logSound_execKept : ExecKept LogSound := by
  constructor
  case toRequestKept => exact ⟨fun _ _ => by simp [LogSound], fun _ _ => by simp [LogSound], fun _ c sc o b d h => append_log h c sc o b d⟩
  case powerOn => exact fun s _ => ⟨Nat.zero_le _, fun i hi => absurd hi (Nat.not_lt_zero i)⟩
  case leaveStart => exact fun s c pins h _ => append_log (s := s.setStc { s.stc with straps := c }) h ..
  case fault => exact fun s b c sc h _ => localFault_log (s := s.putBsu b) h c sc
  case isolated => exact fun s d h _ => enterIsolated_log h d
  case blocked => exact fun s h _ => enterBlocked_log h
  case breakRewind => exact fun s h _ => breakRewind_log h
  case rule => exact fun s f h _ _ => ruleFor_log h f
  case deliver => exact fun s m h => deliver_log h m
  all_goals
    intros
    exact LogSound.of_same ‹LogSound _› (by simp [State.applyStationReset, State.beginRun])

theorem logSound_stepKept : StepKept LogSound where
  toExecKept := logSound_execKept
  pending _ _ h := h
  half _ h := h
  phase _ _ h := h
  ms _ h := h

/-! ### The timers -/

namespace TimersSound

variable {s t : State}

/-- The seven timers, the front and the station state as they were. -/
theorem of_same (h : TimersSound s) (hstc : t.stc = s.stc) (hfront : t.dvu.front = s.dvu.front)
    (ha : t.dvu.announce = s.dvu.announce) (hg : t.dvu.gatherTimer = s.dvu.gatherTimer)
    (hs : t.dvu.settle = s.dvu.settle) (hh : t.dvu.holdLimit = s.dvu.holdLimit) : TimersSound t := by
  obtain ⟨⟨hview, hsettle⟩, hlife⟩ := h
  refine ⟨⟨?_, ?_⟩, ?_⟩
  · rw [hstc, ha, hg, hs, hh]
    exact hview
  · rw [hs, hfront]
    exact hsettle
  · rw [hstc]
    exact hlife

theorem of_same_dvu (h : TimersSound s) (hstc : t.stc = s.stc) (hd : t.dvu = s.dvu) : TimersSound t :=
  h.of_same hstc (by rw [hd]) (by rw [hd]) (by rw [hd]) (by rw [hd]) (by rw [hd])

/-- In MEMBER the view's timers may run, the settle timer at a front that is a rank. -/
theorem of_member (h : t.stc.TimersSound) (hst : t.stc.station = .member)
    (hs : t.dvu.settle.isRunning = true → frontIsRank t.dvu.front = true) : TimersSound t :=
  ⟨⟨fun hne => absurd hst hne, hs⟩, h⟩

end TimersSound

theorem Dvu.startSettle_sound (d : Dvu) (p : Profile) :
    (d.startSettle p).settle.isRunning = true → frontIsRank (d.startSettle p).front = true := by
  unfold Dvu.startSettle
  dsimp only
  split
  · exact fun _ => ‹_›
  · intro h; cases h

@[simp] theorem Dvu.startGather_settle (d : Dvu) (p : Profile) : (d.startGather p).settle = d.settle := rfl

/-- The settle timer runs only at a front that is a rank, in the view that a rewind, a catch-up or an adoption gives. -/
theorem Dvu.startBoth_sound (d : Dvu) (p : Profile) :
    ((d.startSettle p).startGather p).settle.isRunning = true →
      frontIsRank ((d.startSettle p).startGather p).front = true := by
  simpa using d.startSettle_sound p

theorem State.rewind_timers {s : State} (h : TimersSound s) (hst : s.stc.station = .member) (b : Rank) (c : Cause)
    (r : Option (Option Scope × Option StationId)) : TimersSound (s.rewind b c r) := by
  have h1 : TimersSound (s.setDvu (s.dvu.rewind b (c == .start) s.self s.profile)) :=
    .of_member h.life hst (Dvu.startBoth_sound _ _)
  unfold State.rewind
  dsimp only
  split <;> exact h1.of_same (by simp) (by simp) (by simp) (by simp) (by simp) (by simp)

theorem State.catchUp_timers {s : State} (h : TimersSound s) (hst : s.stc.station = .member) (i : StationId) (e : Epoch)
    (a : AnnounceFields) : TimersSound (s.catchUp i e a) := by
  have h1 : TimersSound (s.setDvu (s.dvu.catchUp e a s.profile)) := .of_member h.life hst (Dvu.startBoth_sound _ _)
  exact h1.of_same (by simp [State.catchUp]) (by simp [State.catchUp]) (by simp [State.catchUp]) (by simp [State.catchUp])
    (by simp [State.catchUp]) (by simp [State.catchUp])

theorem State.ruleFor_timers {s : State} (h : TimersSound s) (hst : s.stc.station = .member) (f : Frame) :
    TimersSound (State.ruleFor f s) := by
  have same {t : State} (ht : TimersSound t) (e : Entry) : TimersSound (t.request e) :=
    ht.of_same_dvu (by simp) (by simp)
  have refreshed (a : AnnounceFields) : TimersSound (s.refresh f.sender a) :=
    h.of_same (by simp) (by simp) (by simp) (by simp) (by simp) (by simp)
  apply State.ruleFor_cases (P := TimersSound)
  case announce =>
    intro a _
    unfold State.announceRule
    split
    · exact h.of_same (by simp [State.announceEqual]) (by simp [State.announceEqual]) (by simp [State.announceEqual])
        (by simp [State.announceEqual]) (by simp [State.announceEqual]) (by simp [State.announceEqual])
    · split
      · exact State.catchUp_timers h hst ..
      · exact refreshed a
    · exact same (refreshed a) _
  case advance =>
    intro o n _
    unfold State.advanceRule
    split
    · have h1 : TimersSound (s.setDvu (s.dvu.advanceTo n s.profile)) :=
        .of_member h.life hst (Dvu.startSettle_sound _ _)
      exact h1.of_same (by simp) (by simp) (by simp) (by simp) (by simp) (by simp)
    · exact h.of_same_dvu (by simp) (by simp)
  case rankTimeout =>
    intro k _
    unfold State.rankTimeoutRule
    split
    · have h1 : TimersSound (s.setDvu (s.dvu.markLate.startSettle s.profile)) :=
        .of_member h.life hst (Dvu.startSettle_sound _ _)
      exact h1.of_same_dvu (by simp) (by simp)
    · exact h
  case memberSilent =>
    intro i _
    unfold State.memberSilentRule
    split
    · split
      · exact same h _
      · exact h.of_same (by simp) (by simp) (by simp) (by simp) (by simp) (by simp)
    · exact h
  case fault =>
    intro c _
    unfold State.faultRule
    split
    · unfold State.applyFault
      split
      · exact State.rewind_timers h hst ..
      · exact h.of_same (by simp) (by simp) (by simp) (by simp) (by simp) (by simp)
    · exact same h _
    · exact h
  case hold =>
    intro _
    unfold State.holdRule
    split
    · exact .of_member (by simpa using h.life) (by simpa using hst) (by simpa using h.view.settle)
    · exact h
  case resume =>
    exact fun _ => .of_member (by simpa using h.life) (by simpa using hst) (by simpa [State.resumeRule] using h.view.settle)
  case ready =>
    intro r _
    unfold State.readyRule
    split
    · exact h.of_same (by simp) (by simp) (by simp) (by simp) (by simp) (by simp)
    · exact h
  case query => exact fun _ _ _ _ => h.of_same_dvu (by simp) (by simp)
  case reply => exact fun _ _ => h.of_same_dvu (by simp) (by simp)

/-- R114 to R123: a timer of the station's life that runs at a station in `c` is the one of that state. -/
theorem Stc.TimersSound.elsewhere {c d : Stc} (h : c.TimersSound)
    (h1 : d.startUpDelay.isRunning = true → d.startUpDelay = c.startUpDelay ∧ c.station ≠ .start ∨ d.station = .start)
    (h2 : d.listenIn.isRunning = true → d.listenIn = c.listenIn ∧ c.station ≠ .listen ∨ d.station = .listen)
    (h3 : d.quiet.isRunning = true → d.quiet = c.quiet ∧ c.station ≠ .isolated ∨ d.station = .isolated) :
    d.TimersSound := by
  refine ⟨fun hr => ?_, fun hr => ?_, fun hr => ?_⟩
  · exact (h1 hr).resolve_left fun ⟨he, hne⟩ => hne (h.startUp (he ▸ hr))
  · exact (h2 hr).resolve_left fun ⟨he, hne⟩ => hne (h.listenIn (he ▸ hr))
  · exact (h3 hr).resolve_left fun ⟨he, hne⟩ => hne (h.quiet (he ▸ hr))

/-- Outside MEMBER the view's timers are stopped. -/
theorem TimersSound.of_stopped {t : State} (h : t.stc.TimersSound) (ha : t.dvu.announce = .stopped)
    (hg : t.dvu.gatherTimer = .stopped) (hs : t.dvu.settle = .stopped) (hh : t.dvu.holdLimit = .stopped) :
    TimersSound t :=
  ⟨⟨fun _ => ⟨ha, hg, hs, hh⟩, fun hr => by simp [hs, Timer.isRunning] at hr⟩, h⟩

theorem TimersSound.reset {t : State} (hs : t.stc.startUpDelay = .stopped) (hl : t.stc.listenIn = .stopped)
    (hq : t.stc.quiet = .stopped) (hd : t.dvu = Dvu.reset) : TimersSound t :=
  .of_stopped ⟨by simp [hs, Timer.isRunning], by simp [hl, Timer.isRunning], by simp [hq, Timer.isRunning]⟩
    (by rw [hd]; rfl) (by rw [hd]; rfl) (by rw [hd]; rfl) (by rw [hd]; rfl)

theorem State.found_timers {s : State} (h : TimersSound s) (hst : s.stc.station = .listen) : TimersSound s.found := by
  obtain ⟨-, -, hsettle, -⟩ := h.view.view (by simp [hst])
  refine .of_member (h.life.elsewhere ?_ ?_ ?_) (by simp [State.found]) ?_
  · simp [State.found, hst]
  · simp [State.found, Timer.isRunning]
  · simp [State.found, hst]
  · unfold State.found
    dsimp only
    split
    · simpa using Dvu.startSettle_sound _ _
    · simp [hsettle, Timer.isRunning]

theorem State.adopt_timers {s : State} (h : TimersSound s) (hst : s.stc.station = .listen) (i : StationId) (e : Epoch)
    (a : AnnounceFields) : TimersSound (s.adopt i e a) := by
  refine .of_member (h.life.elsewhere ?_ ?_ ?_) (by simp [State.adopt]) ?_
  · simp [State.adopt, hst]
  · simp [State.adopt, Timer.isRunning]
  · simp [State.adopt, hst]
  · have h1 : (s.dvu.adopt i e a s.self s.profile).settle.isRunning = true →
        frontIsRank (s.dvu.adopt i e a s.self s.profile).front = true := Dvu.startBoth_sound _ _
    simpa [State.adopt] using h1

theorem State.enterIsolated_timers {s : State} (h : TimersSound s)
    (hst : s.stc.station = .listen ∨ s.stc.station = .member) (d : Bool) : TimersSound (s.enterIsolated d) := by
  have hne : s.stc.station ≠ .start := by rcases hst with hst | hst <;> simp [hst]
  unfold State.enterIsolated
  dsimp only
  split <;>
    exact .of_stopped (h.life.elsewhere (by simp [hne]) (by simp [Timer.isRunning]) (by simp))
      (by simp [Dvu.stopTimers]) (by simp [Dvu.stopTimers]) (by simp [Dvu.stopTimers]) (by simp [Dvu.stopTimers])

theorem State.enterBlocked_timers {s : State} (h : TimersSound s) (hst : s.stc.station = .member) :
    TimersSound s.enterBlocked := by
  obtain ⟨-, -, ha, hg, hs, hh⟩ := s.enterBlocked_entered.view
  have hstc := s.enterBlocked_entered.station
  exact .of_stopped (h.life.elsewhere (by simp [hstc, hst]) (by simp [hstc, hst]) (by simp [hstc, hst])) ha hg hs hh

theorem State.leaveStart_timers {s : State} (h : TimersSound s) (hst : s.stc.station = .start) (c : Straps)
    (pins : SampledPins) : TimersSound ((s.setStc { s.stc with straps := c }).leaveStart pins) := by
  obtain ⟨ha, hg, hs, hh⟩ := h.view.view (by simp [hst])
  exact .of_stopped
    (h.life.elsewhere (by simp [State.leaveStart, Timer.isRunning]) (by simp [State.leaveStart]) (by simp [State.leaveStart, hst]))
    (by simpa [State.leaveStart] using ha) (by simpa [State.leaveStart] using hg) (by simpa [State.leaveStart] using hs)
    (by simpa [State.leaveStart] using hh)

theorem State.quietEnd_timers {s : State} (h : TimersSound s) (hst : s.stc.station = .isolated) (n : Nat) :
    TimersSound (s.setStc { s.stc with station := .listen, quiet := .stopped, listenIn := .running n }).holdRunning := by
  obtain ⟨ha, hg, hs, hh⟩ := h.view.view (by simp [hst])
  exact .of_stopped (h.life.elsewhere (by simp [hst]) (by simp) (by simp [Timer.isRunning])) (by simpa using ha) (by simpa using hg)
    (by simpa using hs) (by simpa using hh)

theorem Stc.startDelay_timers {c : Stc} (h : c.TimersSound) (hst : c.station = .start) (r : ResetSource) :
    (c.release r).startDelay.TimersSound := by
  unfold Stc.startDelay
  cases r <;> split <;> exact ⟨fun _ => hst, h.listenIn, h.quiet⟩

theorem timersSound_requestKept : RequestKept TimersSound where
  request _ _ h := h.of_same_dvu (by simp) (by simp)
  cancel _ _ h := h.of_same_dvu (by simp) (by simp)
  append _ _ _ _ _ _ h := h.of_same (by simp) (by simp) (by simp) (by simp) (by simp) (by simp)

theorem timersSound_execKept : ExecKept TimersSound := by
  constructor
  case toRequestKept => exact timersSound_requestKept
  case powerOn | stationReset => exact fun s _ => .reset rfl rfl rfl rfl
  case release =>
    exact fun s r h hst =>
      ⟨by simpa [Stc.startDelay_station] using h.view, Stc.startDelay_timers h.life hst r⟩
  case leaveStart => exact fun s c pins h hst => State.leaveStart_timers h hst c pins
  case found => exact fun s h hst => State.found_timers h hst
  case quietEnd => exact fun s n h hst => State.quietEnd_timers h hst n
  case announced => exact fun s n h hst => .of_member h.life hst h.view.settle
  case gathered | holdLimit => exact fun s h hst => .of_member h.life hst h.view.settle
  case settled => exact fun s h hst => .of_member h.life hst (Dvu.startSettle_sound _ _)
  case stopQuiet =>
    intro s h
    unfold State.stopQuiet
    split
    · exact ⟨h.view, ⟨h.life.startUp, h.life.listenIn, fun hr => by cases hr⟩⟩
    · exact h
  case restartQuiet =>
    intro s h
    unfold State.restartQuiet
    split
    · next hst => exact ⟨h.view, ⟨h.life.startUp, h.life.listenIn, fun _ => hst⟩⟩
    · exact h
  case isolated => exact fun s d h hst => State.enterIsolated_timers h hst d
  case blocked => exact fun s h hst => State.enterBlocked_timers h hst
  case breakRewind => exact fun s h hst => State.rewind_timers h hst ..
  case listenAgain => exact fun s n h hst => ⟨h.view, ⟨h.life.startUp, fun _ => hst, h.life.quiet⟩⟩
  case adopt => exact fun s i e a h hst _ _ => State.adopt_timers h hst i e a
  case rule => exact fun s f h hst _ => State.ruleFor_timers h hst f
  all_goals
    intros
    refine TimersSound.of_same ‹TimersSound _› ?_ ?_ ?_ ?_ ?_ ?_
  all_goals simp [State.beginRun]

@[simp] theorem Timer.tick_stopped : Timer.stopped.tick = .stopped := rfl

@[simp] theorem LatchingTimer.tick_stopped : LatchingTimer.stopped.tick = .stopped := rfl

/-- A millisecond starts and stops no timer. -/
@[simp] theorem Timer.tick_isRunning (t : Timer) : t.tick.isRunning = t.isRunning := by
  cases t <;> rfl

theorem Dvu.tick_settle_isRunning (d : Dvu) : d.tick.settle.isRunning = d.settle.isRunning := by
  unfold Dvu.tick
  dsimp only
  split <;> simp

theorem timersSound_stepKept : StepKept TimersSound where
  toExecKept := timersSound_execKept
  pending _ _ h := ⟨h.view, h.life⟩
  half _ h := ⟨h.view, h.life⟩
  phase _ _ h := ⟨h.view, ⟨h.life.startUp, h.life.listenIn, h.life.quiet⟩⟩
  ms s h := by
    refine ⟨⟨fun hne => ?_, fun hr => h.view.settle (s.dvu.tick_settle_isRunning ▸ hr)⟩, ⟨fun hr => ?_, fun hr => ?_, fun hr => ?_⟩⟩
    · obtain ⟨ha, hg, hs, hh⟩ := h.view.view hne
      simp [State.tickMs, Dvu.tick, ha, hg, hs, hh]
    · exact h.life.startUp (by simpa [State.tickMs] using hr)
    · exact h.life.listenIn (by simpa [State.tickMs] using hr)
    · exact h.life.quiet (by simpa [State.tickMs] using hr)

/-! ### The query slots -/

namespace SlotsSound

variable {s t : State}

theorem of_same (h : SlotsSound s) (hs : t.qru.slots = s.qru.slots) : SlotsSound t := by
  rw [SlotsSound, hs]
  exact h

theorem update (h : SlotsSound s) (i : SlotIx) {f : Slot → Slot} (hf : (f s.qru.slots[i]).Sound) :
    SlotsSound (s.updateSlot i f) := by
  intro j
  rw [slots_updateSlot]
  split
  · exact hf
  · exact h j

end SlotsSound

theorem Slot.Sound.of_stopped {sl : Slot} (ht : sl.timer = .stopped) (hd : sl.status = .ok ∧ sl.data1 = 0 ∧ sl.data2 = 0)
    (ho : sl.state = .waiting → sl.outcome = .ok) : sl.Sound :=
  ⟨fun hr => by simp [ht, Timer.isRunning] at hr, fun hw => ⟨ho hw, hd⟩, fun _ => hd⟩

theorem Slot.Sound.reset : Slot.reset.Sound := .of_stopped rfl ⟨rfl, rfl, rfl⟩ fun _ => rfl

/-- R168: the slots at reset. -/
theorem SlotsSound.of_reset {s : State} (h : s.qru = Qru.reset) : SlotsSound s := fun i => by
  rw [h, show Qru.reset.slots[i] = Slot.reset by simp [Qru.reset]]
  exact .reset

theorem Slot.Sound.drop (sl : Slot) : sl.drop.Sound := .of_stopped rfl ⟨rfl, rfl, rfl⟩ (by simp [Slot.drop])

theorem Slot.Sound.expire (sl : Slot) : sl.expire.Sound := .of_stopped rfl ⟨rfl, rfl, rfl⟩ (by simp [Slot.expire])

theorem Slot.Sound.allocate (sl : Slot) (t : StationId) (it : Item) : (sl.allocate t it).Sound :=
  .of_stopped rfl ⟨rfl, rfl, rfl⟩ fun _ => rfl

/-- A slot that is DONE with OK may hold any data. -/
theorem Slot.Sound.of_done {sl : Slot} (ht : sl.timer = .stopped) (hst : sl.state = .done) (ho : sl.outcome = .ok) :
    sl.Sound :=
  ⟨fun hr => by simp [ht, Timer.isRunning] at hr, fun hw => by simp [hst] at hw, fun hne => absurd ho hne⟩

theorem Slot.Sound.startTimer {sl : Slot} (h : sl.Sound) (g : Fin 4) (p : Profile) : (sl.startTimer g p).Sound := by
  unfold Slot.startTimer
  split
  · next hw => exact ⟨fun _ => hw.1, h.waiting, h.failed⟩
  · exact h

theorem Slot.Sound.startStopped {sl : Slot} (h : sl.Sound) (p : Profile) : (sl.startStopped p).Sound := by
  unfold Slot.startStopped
  split
  · next hw => exact ⟨fun _ => hw.1, h.waiting, h.failed⟩
  · exact h

theorem Slot.Sound.release {sl : Slot} (h : sl.Sound) : sl.release.Sound := by
  unfold Slot.release
  split
  · next hd =>
    have hn : ¬sl.timer.isRunning = true := fun hr => by simpa [hd] using h.timer hr
    exact ⟨fun hr => absurd hr hn, fun hw => (by cases hw), h.failed⟩
  · exact h

theorem Slot.Sound.tick {sl : Slot} (h : sl.Sound) : sl.tick.Sound :=
  ⟨fun hr => h.timer (by simpa [Slot.tick] using hr), h.waiting, h.failed⟩

theorem SlotsSound.handDiscard {s : State} (h : SlotsSound s) (d : Option Entry) : SlotsSound (s.handDiscard d) := by
  unfold State.handDiscard
  split
  · exact h.update _ (.drop _)
  · exact h

theorem SlotsSound.evalRelease {s : State} (h : SlotsSound s) : SlotsSound s.evalRelease := h.of_same (by simp)

theorem slotsSound_requestKept : RequestKept SlotsSound where
  request s e h := SlotsSound.handDiscard (s := s.setTxq (s.txq.request e).1) h _
  cancel _ _ h := h
  append _ _ _ _ _ _ h := h.of_same (by simp)

theorem State.rewind_slots {s : State} (h : SlotsSound s) (b : Rank) (c : Cause)
    (r : Option (Option Scope × Option StationId)) : SlotsSound (s.rewind b c r) := by
  have k := slotsSound_requestKept
  unfold State.rewind
  dsimp only
  split
  · exact k.evalAdvance (k.append _ _ _ _ _ _ (h.of_same (by simp)))
  · exact k.evalAdvance (h.of_same (by simp))

theorem State.localFault_slots {s : State} (h : SlotsSound s) (c : Cause) (sc : Scope) :
    SlotsSound (s.localFault c sc) := by
  have k := slotsSound_requestKept
  unfold State.localFault
  dsimp only
  split
  · refine k.settleTerms (k.request _ _ (h.of_same ?_)) _
    split <;> simp
  · exact h

theorem State.ask_slots {s : State} (h : SlotsSound s) (i : SlotIx) (t : StationId) (it : Item) :
    SlotsSound (s.ask i t it) := by
  have h1 : SlotsSound (s.updateSlot i (fun sl => sl.allocate t it)) := h.update i (.allocate _ _ _)
  unfold State.ask
  dsimp only
  split
  · exact h1.update i (.of_done (by simp [State.selfAnswered, Slot.allocate]) rfl (by simp [State.selfAnswered, Slot.allocate]))
  · exact slotsSound_requestKept.request _ _ h1

theorem State.deliver_slots {s : State} (h : SlotsSound s) (m : Option Mark) : SlotsSound (s.deliver m) := by
  unfold State.deliver
  split
  · split
    · split
      · exact h.of_same (by simp)
      · exact h
    · exact h
  · exact h.update _ (h _).release
  · exact h

theorem State.enterIsolated_slots {s : State} (h : SlotsSound s) (d : Bool) : SlotsSound (s.enterIsolated d) := by
  unfold State.enterIsolated
  dsimp only
  split <;> exact h.of_same (by simp)

theorem State.enterBlocked_slots {s : State} (h : SlotsSound s) : SlotsSound s.enterBlocked := by
  intro i
  have hs : s.enterBlocked.qru.slots = mapTable (fun _ sl => sl.startStopped s.profile) s.qru.slots := by
    simp [State.enterBlocked]
  rw [hs]
  simpa using (h i).startStopped s.profile

theorem State.ruleFor_slots {s : State} (h : SlotsSound s) (f : Frame) : SlotsSound (State.ruleFor f s) := by
  have k := slotsSound_requestKept
  apply State.ruleFor_cases (P := SlotsSound)
  case announce =>
    intro a _
    have hr : SlotsSound (s.refresh f.sender a) := h.of_same (by simp)
    unfold State.announceRule
    split
    · unfold State.announceEqual State.viewCheck
      split
      · exact h.of_same (by simp)
      · exact k.request _ _ (k.append _ _ _ _ _ _ (h.of_same (by simp)))
    · split
      · exact k.evalAdvance (k.append _ _ _ _ _ _ (k.request _ _ (h.of_same (by simp))))
      · exact hr
    · exact k.request _ _ hr
  case advance =>
    intro o n _
    unfold State.advanceRule
    split
    · exact k.evalAdvance (h.of_same (by simp))
    · exact k.evalAdvance h
  case rankTimeout =>
    intro r _
    unfold State.rankTimeoutRule
    split
    · exact k.evalAdvance h
    · exact h
  case memberSilent =>
    intro i _
    unfold State.memberSilentRule
    split
    · split
      · exact k.request _ _ h
      · exact h.of_same (by simp)
    · exact h
  case fault =>
    intro c _
    unfold State.faultRule State.applyFault
    split
    · split
      · exact State.rewind_slots h _ _ _
      · exact k.evalAdvance (h.of_same (by simp))
    · exact k.request _ _ h
    · exact h
  case query =>
    intro i item tag _
    have h1 : SlotsSound (if f.sender = s.self then s.updateSlot tag.slot (fun sl => sl.startTimer tag.gen s.profile)
        else s) := by
      split
      · exact h.update _ ((h tag.slot).startTimer _ _)
      · exact h
    unfold State.queryRule
    dsimp only
    split
    · exact k.request _ _ h1
    · exact h1
  case reply =>
    intro r _
    unfold State.replyRule
    split
    · exact k.cancel _ _ (h.update _ (.of_done rfl rfl rfl))
    · exact h
  all_goals
    intros
    exact h.of_same (by simp)

theorem slotsSound_execKept : ExecKept SlotsSound := by
  have k := slotsSound_requestKept
  constructor
  case toRequestKept => exact k
  case powerOn | stationReset => exact fun _ _ => .of_reset rfl
  case found => exact fun s h _ => k.evalAdvance (.evalRelease (k.request _ _ (h.of_same (by simp))))
  case fault => exact fun s b c sc h _ => State.localFault_slots (s := s.putBsu b) h c sc
  case isolated => exact fun s d h _ => State.enterIsolated_slots h d
  case blocked => exact fun s h _ => State.enterBlocked_slots h
  case breakRewind =>
    intro s h _
    unfold State.breakRewind
    exact State.rewind_slots h _ _ _
  case adopt => exact fun s i e a h _ _ _ => k.evalAdvance (.evalRelease (k.request _ _ (h.of_same (by simp))))
  case rule => exact fun s f h _ _ => State.ruleFor_slots h f
  case expire => exact fun s i h => h.update i (.expire _)
  case ask => exact fun s i t it h => State.ask_slots h i t it
  case deliver => exact fun s m h => State.deliver_slots h m
  all_goals
    intros
    exact SlotsSound.of_same ‹SlotsSound _› (by simp [State.leaveStart, State.beginRun])

theorem slotsSound_stepKept : StepKept SlotsSound where
  toExecKept := slotsSound_execKept
  pending _ _ h := h
  half _ h := h
  phase _ _ h := h
  ms s h i := by simpa [State.tickMs] using (h i).tick

/-! ### The line -/

namespace Lif.Sound

variable {l m : Lif}

/-- The run in progress as it was. -/
theorem of_run (h : l.Sound) (hi : m.lineDominant = true ∨ m.receive ≠ .outside → m.idle = 0)
    (hd : m.lineDominant = l.lineDominant) (hn : m.runLength = l.runLength) (hc : m.runClass = l.runClass) : m.Sound where
  idle := hi
  recessive hr := by
    rw [hn, hc]
    exact h.recessive (hd ▸ hr)
  length := hn ▸ h.length
  long hl := hn ▸ h.long (hc ▸ hl)
  stuck hs := hn ▸ h.stuck (hc ▸ hs)

/-- The run in progress, the idle count and the place of the receiver, in a frame or outside, as they were. -/
theorem of_same (h : l.Sound) (hr : m.receive ≠ .outside → l.receive ≠ .outside) (hi : m.idle = l.idle)
    (hd : m.lineDominant = l.lineDominant) (hn : m.runLength = l.runLength) (hc : m.runClass = l.runClass) : m.Sound :=
  h.of_run (fun hm => hi ▸ h.idle (hm.imp (hd ▸ ·) hr)) hd hn hc

/-- No run in progress and the idle count at 0. -/
theorem of_start (hn : m.runLength = 0) (hc : m.runClass = .ordinary) (hi : m.idle = 0) : m.Sound :=
  ⟨fun _ => hi, fun _ => ⟨hn, hc⟩, by rw [hn]; exact Nat.zero_le _, fun hl => by simp [hc] at hl,
    fun hs => by simp [hc] at hs⟩

/-- R152: the run in progress reported at its length. -/
theorem report (h : l.Sound) (hd : l.lineDominant = true) {c : RunClass} {n : Nat} (hn : n ≤ Config.stuckHalves)
    (hl : Config.longHalves < n) (hs : c = .stuck → n = Config.stuckHalves) :
    Lif.Sound { l with runClass := c, runLength := n } :=
  ⟨h.idle, fun hr => absurd (hd.symm.trans hr) (by simp), hn, fun _ => hl, hs⟩

theorem stopSending (h : l.Sound) : l.stopSending.Sound := h.of_same id rfl rfl rfl rfl

theorem tick (h : l.Sound) : l.tick.Sound := by
  cases hd : l.lineDominant with
  | true =>
    have hlen : l.tick.runLength = min (l.runLength + 1) Config.stuckHalves := by simp [Lif.tick, hd]
    refine ⟨fun _ => by simp [Lif.tick, hd], fun hr => absurd (hd.symm.trans hr) (by simp), ?_, fun hl => ?_, fun hs => ?_⟩
    · omega
    · have := h.long hl
      simp only [Config.longHalves, Config.stuckHalves] at this hlen ⊢
      omega
    · have := h.stuck hs
      omega
  | false =>
    obtain ⟨-, hclass⟩ := h.recessive hd
    have hlen : l.tick.runLength = 0 := by simp [Lif.tick, hd]
    refine ⟨fun hb => ?_, fun _ => ⟨hlen, hclass⟩, by omega, fun hl => ?_, fun hs => ?_⟩
    · have hrx : l.receive ≠ .outside := fun ho => by simp [Lif.tick, hd, ho, Receive.tick] at hb
      simp [Lif.tick, hrx]
    · exact absurd (hclass.symm.trans hl) (by simp)
    · exact absurd (hclass.symm.trans hs) (by simp)

end Lif.Sound

theorem LineSound.of_lif {s t : State} (h : LineSound s) (hl : t.lif = s.lif) : LineSound t := by
  rw [LineSound, hl]
  exact h

theorem State.enterIsolated_lif (s : State) (d : Bool) :
    (s.enterIsolated d).lif =
      { s.lif.stopSending with collisions := 0, driveFaults := 0 } := by
  unfold State.enterIsolated
  dsimp only
  split <;> simp [State.endAttempt]

theorem State.discardFrame_line {s : State} (h : LineSound s) : LineSound s.discardFrame := by
  unfold State.discardFrame
  split
  · exact h
  · exact Lif.Sound.of_run h (fun _ => rfl) rfl rfl rfl

theorem Receive.exempted_inside {rx : Receive} (h : rx.exempted ≠ .outside) : rx ≠ .outside :=
  fun ho => h (by rw [ho]; rfl)

theorem lineSound_execKept : ExecKept LineSound := by
  constructor
  case toRequestKept =>
    exact ⟨fun _ _ h => h.of_lif (by simp), fun _ _ h => h.of_lif (by simp), fun _ _ _ _ _ _ h => h.of_lif (by simp)⟩
  case powerOn | stationReset => exact fun _ _ => Lif.Sound.of_start rfl rfl rfl
  case leaveStart => exact fun s c pins _ _ => Lif.Sound.of_start rfl rfl rfl
  case longRun =>
    exact fun s n h hd hl hn => Lif.Sound.report h hd (hn.trans (max_le h.length (by decide))) hl nofun
  case stuckRun => exact fun s h hd => Lif.Sound.report h hd le_rfl (by decide) fun _ => rfl
  case isolated =>
    intro s d h _
    rw [LineSound, State.enterIsolated_lif]
    exact Lif.Sound.of_same h id rfl rfl rfl rfl
  case blocked =>
    intro s h _
    rw [LineSound, State.enterBlocked_lif]
    exact Lif.Sound.stopSending h
  case exempt => exact fun s h => Lif.Sound.of_same h Receive.exempted_inside rfl rfl rfl rfl
  case endAttempt => exact fun s h => Lif.Sound.of_same h id rfl rfl rfl rfl
  case collisions | driveFaults => exact fun s n h => Lif.Sound.of_same h id rfl rfl rfl rfl
  case releaseBreak | breakBegun => exact fun s h _ => Lif.Sound.of_same h id rfl rfl rfl rfl
  case attempt => exact fun s e h _ _ => Lif.Sound.of_same h id rfl rfl rfl rfl
  case discard => exact fun s h => State.discardFrame_line h
  case beginRun => exact fun s _ _ => Lif.Sound.of_start rfl rfl rfl
  case endRun => exact fun s _ => Lif.Sound.of_start rfl rfl rfl
  case frameDone => exact fun s h => Lif.Sound.of_run h (fun _ => rfl) rfl rfl rfl
  case ownDone => exact fun s h _ _ => Lif.Sound.of_same h id rfl rfl rfl rfl
  all_goals
    intros
    exact LineSound.of_lif ‹LineSound _› (by simp [State.breakRewind])

theorem lineSound_stepKept : StepKept LineSound where
  toExecKept := lineSound_execKept
  pending _ _ h := h
  half _ h := Lif.Sound.tick h
  phase _ _ h := h
  ms _ h := h

/-- Settles O57: each of the four predicates is kept by every operation the commands are made of and by the passage of
time, hence by a step. -/
theorem everyStepKeepsLogTimersSlotsAndLineSound : Obligations.EveryStepKeepsLogTimersSlotsAndLineSound := by
  unfold Obligations.EveryStepKeepsLogTimersSlotsAndLineSound
  refine ⟨fun s t hlog ht => logSound_stepKept.step hlog ht, fun s t htimers hslots hline ht => ?_⟩
  exact ⟨timersSound_stepKept.step htimers ht, slotsSound_stepKept.step hslots ht, lineSound_stepKept.step hline ht⟩

end Sys2Proof.Machine

/-!
R71, R77, R84, R87 to R89, R92 to R94: every operation of the commands, and time, keep the board's bookkeeping sound.
-/

namespace Sys2Proof.Machine

/-! ### Boards that stay where they are -/

/-- The straps and the station state alone matter. -/
theorem Bsu.Sound.of_stc {b : Bsu} {c d : Stc} (h : b.Sound c) (hst : d.station = c.station)
    (hstraps : d.straps = c.straps) : b.Sound d :=
  ⟨h.watchdog, h.budget, h.recovery, h.stable, h.band, by rw [hstraps]; exact h.latch,
    by rw [hst, hstraps]; exact h.station⟩

/-- R71, R93, R94, R120: outside MEMBER and ISOLATED no board runs. -/
theorem Bsu.Sound.not_running {b : Bsu} {c : Stc} (h : b.Sound c) (hm : c.station ≠ .member)
    (hi : c.station ≠ .isolated) : boardRunning b.board = false := by
  by_contra hr
  rcases h.station (by simpa using hr) with hst | ⟨hst, -⟩
  · exact hm hst
  · exact hi hst

theorem Timer.tick_running (t : Timer) : t.tick.isRunning = t.isRunning := by
  cases t <;> rfl

theorem Watchdog.tick_armed (w : Watchdog) : w.tick.isArmed = w.isArmed := by
  cases w <;> rfl

theorem Bsu.Sound.tick {b : Bsu} {c : Stc} (h : b.Sound c) : b.tick.Sound c :=
  ⟨by simpa [Bsu.tick, Watchdog.tick_armed] using h.watchdog, h.budget,
    by simpa [Bsu.tick, Timer.tick_running] using h.recovery,
    by simpa [Bsu.tick, Timer.tick_running] using h.stable, h.band, h.latch, h.station⟩

/-- R83, R80: an input's fall leaves the board, its timers and its count as they were. -/
theorem Bsu.InputFell.core {b c : Bsu} (hf : b.InputFell c) (h : b.Core) : c.Core := by
  rcases hf with rfl | rfl | rfl <;> exact ⟨h.watchdog, h.budget, h.recovery, h.stable⟩

namespace BoardSound

variable {s t : State}

theorem of_same (h : BoardSound s) (hb : t.bsu = s.bsu) (hst : t.stc.station = s.stc.station)
    (hstraps : t.stc.straps = s.stc.straps) : BoardSound t := by
  rw [BoardSound, hb]
  exact Bsu.Sound.of_stc h hst hstraps

/-- A change of station state that leaves MEMBER and ISOLATED aside. -/
theorem of_not_running (h : BoardSound s) (hb : t.bsu = s.bsu) (hn : boardRunning s.bsu.board = false) :
    BoardSound t := by
  rw [BoardSound, hb]
  exact Bsu.Sound.elsewhere h hn

theorem evalRelease (h : BoardSound s) : BoardSound s.evalRelease := by
  rw [BoardSound, State.evalRelease_stc]
  exact evalRelease_board h

theorem rewind (h : BoardSound s) (b : Rank) (c : Cause) (r : Option (Option Scope × Option StationId)) :
    BoardSound (s.rewind b c r) := by
  rw [BoardSound, State.rewind_stc]
  exact rewind_board h b c r

theorem catchUp (h : BoardSound s) (i : StationId) (e : Epoch) (a : AnnounceFields) : BoardSound (s.catchUp i e a) := by
  rw [BoardSound, State.catchUp_stc]
  exact catchUp_board h i e a

/-- R117, R118: the release evaluation of an operation that enters MEMBER from LISTEN, where no board runs. -/
theorem enter (h : BoardSound s) (hst : s.stc.station = .listen) (hb : t.bsu = s.bsu) : BoardSound t :=
  h.of_not_running hb (Bsu.Sound.not_running h (by simp [hst]) (by simp [hst]))

end BoardSound

/-! ### The commands' operations -/

theorem boardSound_requestKept : RequestKept BoardSound := by
  constructor
  all_goals
    intros
    exact BoardSound.of_same ‹_› (by simp) (by simp) (by simp)

/-- R120: ISOPOL = CONTAIN holds a running board at once, and KEEP lets it run in ISOLATED. -/
theorem State.enterIsolated_board {s : State} (h : BoardSound s) (d : Bool) : BoardSound (s.enterIsolated d) := by
  have hc : s.bsu.Core := Bsu.Sound.core h
  unfold State.enterIsolated
  dsimp only
  split
  · exact holdRunning_board (by simpa [State.endAttempt] using hc) _
  · next hpol =>
    have hhigh : s.stc.straps.isoPol = .high := by cases hp : s.stc.straps.isoPol <;> simp_all
    rw [BoardSound]
    simp [State.endAttempt]
    exact ⟨h.watchdog, h.budget, h.recovery, h.stable, h.band, h.latch, fun _ => .inr ⟨rfl, hhigh⟩⟩

theorem State.ruleFor_board {s : State} (h : BoardSound s) (f : Frame) : BoardSound (State.ruleFor f s) := by
  have k := boardSound_requestKept
  apply State.ruleFor_cases (P := BoardSound)
  case announce =>
    intro a _
    have hr : BoardSound (s.refresh f.sender a) := h.of_same (by simp) (by simp) (by simp)
    unfold State.announceRule
    split
    · exact h.of_same (by simp [State.announceEqual]) (by simp [State.announceEqual]) (by simp [State.announceEqual])
    · split
      · exact h.catchUp _ _ _
      · exact hr
    · exact k.request _ _ hr
  case fault =>
    intro c _
    unfold State.faultRule State.applyFault
    split
    · split
      · exact h.rewind _ _ _
      · exact k.evalAdvance (h.of_same (by simp) (by simp) (by simp))
    · exact k.request _ _ h
    · exact h
  case advance =>
    intro o n _
    have hd : BoardSound (s.setDvu (s.dvu.advanceTo n s.profile)) := h.of_same (by simp) (by simp) (by simp)
    unfold State.advanceRule
    split
    · exact k.evalAdvance hd.evalRelease
    · exact k.evalAdvance h
  all_goals
    intros
    exact h.of_same (by simp) (by simp) (by simp)

/-- A board that has just been given its bookkeeping by one event of the Board Supply Unit. -/
theorem BoardSound.setBsu {s : State} {b : Bsu} (h : b.Sound s.stc) : BoardSound (s.setBsu b) := by
  rw [BoardSound, State.setBsu_bsu]
  simpa using h

theorem boardSound_execKept : ExecKept BoardSound := by
  have k := boardSound_requestKept
  constructor
  case toRequestKept => exact k
  case powerOn | stationReset =>
    exact fun s _ => Bsu.Core.held rfl rfl (by simp [State.applyPowerOn, State.applyStationReset, State.reset, Bsu.reset]) rfl rfl
  case release =>
    intro s r h hst
    exact h.of_not_running rfl (Bsu.Sound.not_running h (by simp [hst]) (by simp [hst]))
  case leaveStart =>
    intro s c pins h hst
    have hn := Bsu.Sound.not_running h (by simp [hst]) (by simp [hst])
    have hcore : s.bsu.Core := Bsu.Sound.core h
    rw [BoardSound]
    simp [State.leaveStart]
    exact Bsu.Core.stopped ⟨hcore.watchdog, hcore.budget, hcore.recovery, hcore.stable⟩ hn
  case found =>
    intro s h hst
    exact k.evalAdvance (.evalRelease (k.request _ _ (h.enter hst (by simp))))
  case adopt =>
    intro s i e a h hst _ _
    exact k.evalAdvance (.evalRelease (k.request _ _ (h.enter hst (by simp))))
  case quietEnd =>
    intro s n h _
    exact holdRunning_board (by simpa using Bsu.Sound.core h) _
  case evalRelease => exact fun s h => h.evalRelease
  case holdDown =>
    exact fun s h => .setBsu ⟨h.watchdog, h.budget, h.recovery, h.stable, h.band, h.latch, h.station⟩
  case recovered =>
    intro s h hb
    refine .setBsu (Bsu.Core.held rfl ?_ ?_ rfl ?_)
    · simpa [hb, boardRunning] using h.watchdog
    · simpa [hb] using h.budget
    · simpa [hb] using h.stable
  case cleared =>
    intro s h hb
    refine .setBsu (Bsu.Core.held rfl ?_ (by simp) ?_ ?_)
    · simpa [hb, boardRunning] using h.watchdog
    · simpa [hb] using h.recovery
    · simpa [hb] using h.stable
  case stable =>
    intro s h hs
    have hb : s.bsu.board = .ready := h.stable hs
    exact .setBsu ⟨h.watchdog, by simp [hb], h.recovery, by simp [Timer.isRunning], h.band, h.latch, h.station⟩
  case brdyRise =>
    intro s n h hb
    have hr : boardRunning s.bsu.board = true := by rw [hb]; rfl
    refine .setBsu ⟨?_, ?_, ?_, fun _ => rfl, fun _ => h.band hr, fun _ => h.latch hr, fun _ => h.station hr⟩
    · simpa [hb, boardRunning] using h.watchdog
    · simpa [hb] using h.budget
    · simpa [hb] using h.recovery
  case brdyFall =>
    intro s h hb
    have hr : boardRunning s.bsu.board = true := by rw [hb]; rfl
    refine .setBsu ⟨?_, ?_, ?_, by simp [Timer.isRunning], fun _ => h.band hr, fun _ => h.latch hr, fun _ => h.station hr⟩
    · simpa [hb, boardRunning] using h.watchdog
    · simpa [hb] using h.budget
    · simpa [hb] using h.recovery
  case kick =>
    intro s n h ha
    have hr : boardRunning s.bsu.board = true := h.watchdog.1 ha
    exact ⟨by simp [Watchdog.isArmed, hr], h.budget, h.recovery, h.stable, h.band, h.latch, h.station⟩
  case fltRise =>
    exact fun s h => ⟨h.watchdog, h.budget, h.recovery, h.stable, h.band, fun _ _ => rfl, h.station⟩
  case bandNormal =>
    exact fun s h => ⟨h.watchdog, h.budget, h.recovery, h.stable, fun _ => rfl, h.latch, h.station⟩
  case fault => exact fun s b c sc h hf => localFault_board (hf.core (Bsu.Sound.core h)) _ c sc
  case isolated => exact fun s d h _ => State.enterIsolated_board h d
  case blocked => exact fun s h _ => blockBoard_board (by simpa using Bsu.Sound.core h) _
  case breakRewind => exact fun s h _ => h.rewind _ _ _
  case rule => exact fun s f h _ _ => State.ruleFor_board h f
  case stopQuiet =>
    intro s h
    unfold State.stopQuiet
    split
    · exact Bsu.Sound.of_stc h rfl rfl
    · exact h
  case restartQuiet =>
    intro s h
    unfold State.restartQuiet
    split
    · exact Bsu.Sound.of_stc h rfl rfl
    · exact h
  all_goals
    intros
    refine BoardSound.of_same ‹BoardSound _› ?_ ?_ ?_
  all_goals simp [State.beginRun]

theorem boardSound_stepKept : StepKept BoardSound where
  toExecKept := boardSound_execKept
  pending _ _ h := h
  half _ h := h
  phase _ _ h := Bsu.Sound.of_stc h rfl rfl
  ms _ h := Bsu.Sound.of_stc h.tick rfl rfl

/-- Settles O58: `StepKept.step` of the board's soundness. -/
theorem everyStepKeepsTheBoardSound : Obligations.EveryStepKeepsTheBoardSound :=
  fun _ _ h hstep => boardSound_stepKept.step h hstep

end Sys2Proof.Machine

/-!
R6 to R10: every operation of the commands, and time, keep the view sound.
-/

namespace Sys2Proof.Machine

namespace ViewSound

variable {s t : State}

/-- The view, the log and what the own record shows of the blocks as they were. -/
theorem of_same_dvu (h : ViewSound s) (hst : t.stc.station = s.stc.station) (hstraps : t.stc.straps = s.stc.straps)
    (hb : t.bsu.board = s.bsu.board) (hn : t.bsu.budget = s.bsu.budget) (hl : t.clg = s.clg) (hd : t.dvu = s.dvu) :
    ViewSound t :=
  h.of_same (by simp [hst]) hstraps hb hn (by simp [State.logPending, hl]) (by rw [hd]) (by rw [hd])
    (by rw [hd]; exact h.gather)

/-- The view as it was, outside MEMBER. -/
theorem leave_same_dvu (h : ViewSound s) (hst : t.stc.station ≠ .member) (hd : t.dvu = s.dvu) : ViewSound t :=
  h.leave hst (by rw [hd]) (by rw [hd]) (by rw [hd]) (by rw [hd])

theorem board (h : ViewSound s) (b : Bsu) : ViewSound (s.setBsu b) := setBsu_view h.base b

/-- R15, R17: the records of the other stations may take what a frame reports. -/
theorem update_other (h : ViewSound s) {i : StationId} {f : Record → Record} (hs : (f (s.record i)).Sound)
    (hp : (s.record i).present = true → (f (s.record i)).present = true) (hi : i ≠ s.self) :
    ViewSound (s.updateRecord i f) :=
  h.update i f hs hp fun e => absurd e hi

/-- The view at reset (R125, R126). -/
theorem of_reset (hst : t.stc.station ≠ .member) (hd : t.dvu = Dvu.reset) : ViewSound t := by
  have hrec : ∀ i, t.record i = Record.reset := fun i => by simp [State.record, hd, Dvu.reset]
  refine ⟨fun hm => absurd hm hst, fun i => ?_, fun i hi => ?_, fun hg => ?_⟩
  · rw [hrec]
    exact ⟨fun _ => ⟨rfl, rfl, rfl, rfl⟩, nofun⟩
  · simp [hd, Dvu.reset] at hi
  · simp [hd, Dvu.reset] at hg

end ViewSound

theorem State.reconcile_record (s : State) (i : StationId) (b : Bool) (j : StationId) :
    (s.reconcile i b).record j = s.record j := by
  unfold State.reconcile
  split
  · simp only [State.record, State.addHold]
    unfold State.freezeIf
    split <;> rfl
  · rfl

/-- A table changed entry by entry, read at a station or a slot. -/
theorem mapTable_fin {α : Type} {n : Nat} (f : Fin n → α → α) (t : Vector α n) (i : Fin n) :
    (mapTable f t)[i] = f i t[i] := mapTable_getElem f t i i.isLt

/-! ### The rules of the frames -/

theorem Record.Sound.refreshed {r : Record} (hp : r.present = true) (a : AnnounceFields) :
    (r.refreshed a).Sound := by
  refine ⟨fun hn => absurd (hp.symm.trans hn) (by simp), fun hr => ?_⟩
  simp only [Record.refreshed, Bool.and_eq_true, beq_iff_eq] at hr ⊢
  exact hr.2

/-- R9, R17: a MEMBER's own record is present, and an ANNOUNCE that only refreshes leaves it as it is. -/
theorem refresh_view {s : State} (h : ViewSound s) (hm : s.stc.station = .member) (i : StationId) (a : AnnounceFields) :
    ViewSound (s.refresh i a) := by
  obtain ⟨hj, hjp⟩ := (h.records i).joinIfAbsent s.dvu.epoch
  unfold State.refresh
  by_cases hi : i = s.self
  · subst hi
    have hsame : (s.record s.self).joinIfAbsent s.dvu.epoch = s.record s.self :=
      Record.joinIfAbsent_of_present (h.own hm).present _
    refine h.update _ _ ?_ ?_ ?_ <;> simp only [hsame, if_true]
    · exact h.records _
    · exact id
    · exact fun _ => id
  · refine h.update_other ?_ ?_ hi <;> simp only [hi, if_false]
    · exact .refreshed hjp a
    · exact fun _ => hjp

/-- R8, R21: the record and the place in the hold set go together. -/
theorem removeMember_view {s : State} (h : ViewSound s) {i : StationId} (hi : i ≠ s.self) :
    ViewSound (s.removeMember i) := by
  unfold State.removeMember
  split
  · have hrec : ∀ j, ((s.updateRecord i Record.leave).removeHold i).record j =
        if j = i then (s.record j).leave else s.record j := fun j => by
      have hhold : ((s.updateRecord i Record.leave).removeHold i).record j = (s.updateRecord i Record.leave).record j := rfl
      rw [hhold, record_updateRecord]
      split
      · next e => rw [e]
      · rfl
    refine ⟨fun hm => ?_, fun j => ?_, fun j hj => ?_, h.gather⟩
    · rw [ownSound_iff, hrec]
      have hne : ((s.updateRecord i Record.leave).removeHold i).self ≠ i := Ne.symm hi
      rw [if_neg hne]
      exact (ownSound_iff s).1 (h.own hm)
    · rw [hrec]
      split
      · exact Record.Sound.leave _
      · exact h.records j
    · rw [holdSet_removeHold] at hj
      rw [hrec]
      split at hj
      · exact absurd hj (by simp)
      · next hne =>
        rw [if_neg hne]
        exact h.holders j hj
  · exact h

theorem markLocal_view {s : State} (h : ViewSound s) (i : StationId) (k : Rank) : ViewSound (s.markLocal i k) := by
  unfold State.markLocal
  split
  · exact h
  · next hi =>
    refine h.update_other ?_ ?_ hi
    · split
      · next hp => exact ⟨fun hn => absurd (hp.symm.trans hn) (by simp), nofun⟩
      · exact h.records i
    · split
      · exact id
      · exact id

theorem markLate_view {s : State} (h : ViewSound s) : ViewSound (s.setDvu (s.dvu.markLate.startSettle s.profile)) := by
  have hrec : ∀ i, (s.dvu.markLate.startSettle s.profile).records[i] = if (s.record i).blocking s.dvu.front then
      { s.record i with late := true } else s.record i := fun i => by
    rw [Dvu.startSettle_records]
    exact mapTable_fin _ _ i
  refine h.setDvu _ (fun i => ?_) (fun i hp => ?_) (fun ho => ?_) rfl h.gather
  · rw [hrec]
    split
    · next hb =>
      have hp : (s.record i).present = true := ((Record.blocking_iff _ _).1 hb).1
      exact ⟨fun hn => absurd (hp.symm.trans hn) (by simp), (h.records i).ready⟩
    · exact h.records i
  · rw [hrec]
    split
    · exact hp
    · exact hp
  · rw [hrec]
    split
    · exact ⟨ho.1, ho.2, ho.3, ho.4, ho.5, ho.6⟩
    · exact ho

/-- R10, R18: the own record's ready flag is set by an own READY only while the board is READY. -/
theorem readyRule_view {s : State} (h : ViewSound s) (hm : s.stc.station = .member) (i : StationId) (e : Epoch)
    (k : Rank) : ViewSound (s.readyRule i e k) := by
  have hown := (ownSound_iff s).1 (h.own hm)
  unfold State.readyRule
  split
  · refine h.update i _ ?_ ?_ ?_
    · unfold Record.readied
      split
      · next hp =>
        split
        · next hi =>
          have hi' : i = s.self := by simpa using hi
          subst hi'
          refine ⟨fun hn => absurd (hp.symm.trans hn) (by simp), fun hr => ?_⟩
          rcases Bool.or_eq_true_iff.1 hr with hr | hr
          · exact (h.records _).ready hr
          · exact hown.board.trans (by simpa using hr)
        · exact ⟨fun hn => absurd (hp.symm.trans hn) (by simp), fun _ => rfl⟩
      · exact h.records i
    · unfold Record.readied
      split
      · next hp => split <;> exact fun _ => hp
      · exact id
    · rintro rfl ho
      simp only [Record.readied, ho.present, beq_self_eq_true, if_true]
      exact ⟨rfl, ho.rank, ho.board, ho.budget, ho.logPending, ho.silence⟩
  · exact h

theorem ageRecords_record (s : State) (i : StationId) : s.ageRecords.record i =
    if (s.record i).present = true ∧ i ≠ s.self then { s.record i with silence := ageOf (s.record i).silence }
    else s.record i := by
  rw [State.ageRecords, record_setRecords, mapTable_fin, State.record]

theorem ageRecords_view {s : State} (h : ViewSound s) : ViewSound s.ageRecords := by
  refine h.setDvu _ (fun i => ?_) (fun i hp => ?_) (fun ho => ?_) rfl h.gather
  · change (s.ageRecords.record i).Sound
    rw [ageRecords_record]
    split
    · next hp => exact ⟨fun hn => absurd (hp.1.symm.trans hn) (by simp), (h.records i).ready⟩
    · exact h.records i
  · change (s.ageRecords.record i).present = true
    rw [ageRecords_record]
    split
    · exact hp
    · exact hp
  · change (s.ageRecords.record s.self).Shows _ _ _ _
    rw [ageRecords_record, if_neg (by simp)]
    exact ho

theorem viewSound_requestKept : RequestKept ViewSound where
  request _ e h := request_view h e
  cancel _ k h := cancel_view h k
  append _ _ _ _ _ _ h := append_view h _ _ _ _ _

theorem State.ruleFor_view {s : State} (h : ViewSound s) (hm : s.stc.station = .member) {f : Frame}
    (hv : frameValid f = true) : ViewSound (State.ruleFor f s) := by
  have k := viewSound_requestKept
  apply State.ruleFor_cases (P := ViewSound)
  case announce =>
    intro a ha
    have hr := refresh_view h hm f.sender a
    have hc : announceConsistent a = true := by simpa [frameValid, ha] using hv
    unfold State.announceRule
    split
    · obtain ⟨hview, hp⟩ := applyAnnounce_view h hm f.sender a
      exact viewCheck_view (reconcile_view hview _ _ hp) _ _ (by rwa [State.reconcile_record])
    · split
      · exact catchUp_view h hm _ _ _ hc
      · exact hr
    · exact k.request _ _ hr
  case advance =>
    intro o n _
    unfold State.advanceRule
    split
    · exact k.evalAdvance (evalRelease_view (h.setDvu_same _ rfl rfl (by simp [Dvu.advanceTo])))
    · exact k.evalAdvance h
  case rankTimeout =>
    intro r _
    unfold State.rankTimeoutRule
    split
    · exact k.evalAdvance (markLate_view h)
    · exact h
  case memberSilent =>
    intro i _
    unfold State.memberSilentRule
    split
    · split
      · exact k.request _ _ h
      · exact removeMember_view h ‹_›
    · exact h
  case fault =>
    intro c _
    unfold State.faultRule State.applyFault
    split
    · split
      · next b hb =>
        refine rewind_view h _ _ (fun hs => ?_) _
        simpa [faultRewind, hs, eq_comm] using hb
      · exact k.evalAdvance (markLocal_view h _ _)
    · exact k.request _ _ h
    · exact h
  case hold =>
    intro _
    unfold State.holdRule State.startHoldLimit
    split
    · next hp =>
      have ha := addHold_view h f.sender hp
      split
      · exact ha.setDvu_same _ rfl rfl ha.gather
      · exact ha
    · exact h
  case resume =>
    intro _
    have hr := removeHold_view h f.sender
    unfold State.resumeRule State.stopHoldLimit
    split
    · exact hr.setDvu_same _ rfl rfl hr.gather
    · exact hr
  case ready => exact fun r _ => readyRule_view h hm _ _ r
  case query =>
    intro i item tag _
    exact h.of_same_dvu (by simp) (by simp) (by simp) (by simp) (by simp) (by simp)
  case reply =>
    intro r _
    exact h.of_same_dvu (by simp) (by simp) (by simp) (by simp) (by simp) (by simp)

/-! ### Departures -/

theorem State.enterIsolated_view {s : State} (h : ViewSound s) (d : Bool) : ViewSound (s.enterIsolated d) := by
  unfold State.enterIsolated
  dsimp only
  split
  · exact holdRunning_view (h.leave (by simp) rfl rfl rfl rfl)
  · exact h.leave (by simp) rfl rfl rfl rfl

theorem State.enterBlocked_view {s : State} (h : ViewSound s) : ViewSound s.enterBlocked := by
  have e := s.enterBlocked_entered
  exact h.leave (by rw [e.station]; simp) e.view.records e.view.domain.holdSet e.view.domain.gather
    e.view.domain.front

theorem State.deliver_view {s : State} (h : ViewSound s) (m : Option Mark) : ViewSound (s.deliver m) := by
  unfold State.deliver
  split
  · split
    · split
      · exact removeOldest_view h
      · exact h
    · exact h
  · exact h.of_same_dvu (by simp) (by simp) (by simp) (by simp) (by simp) (by simp)
  · exact h

theorem viewSound_execKept : ExecKept ViewSound := by
  have k := viewSound_requestKept
  constructor
  case toRequestKept => exact k
  case powerOn | stationReset =>
    exact fun s _ => .of_reset nofun rfl
  case release =>
    intro s r h hst
    exact h.leave_same_dvu (by simp [Stc.startDelay_station, hst]) rfl
  case leaveStart =>
    intro s c pins h hst
    refine h.leave_same_dvu (by simp [State.leaveStart]) ?_
    exact State.append_dvu_off (s := s.setStc { s.stc with straps := c }) (by simp [hst]) _ _ _ _ _
  case found => exact fun s h _ => found_view h
  case quietEnd =>
    exact fun s n h _ => holdRunning_view (h.leave_same_dvu (by simp) rfl)
  case announced => exact fun s n h _ => h.setDvu_same _ rfl rfl h.gather
  case gathered | holdLimit => exact fun s h _ => h.setDvu_same _ rfl rfl h.gather
  case settled => exact fun s h _ => h.setDvu_same _ rfl rfl h.gather
  case aged => exact fun s h => ageRecords_view h
  case evalRelease => exact fun s h => evalRelease_view h
  case holdDown => exact fun s h => h.board _
  case recovered | cleared | stable | brdyFall => exact fun s h _ => h.board _
  case brdyRise => exact fun s n h _ => h.board _
  case fault =>
    intro s b c sc h hf
    refine localFault_view (ViewSound.of_same_dvu (t := s.putBsu b) h rfl rfl ?_ ?_ rfl rfl) c sc
    · rcases hf with rfl | rfl | rfl <;> rfl
    · rcases hf with rfl | rfl | rfl <;> rfl
  case isolated => exact fun s d h _ => State.enterIsolated_view h d
  case blocked => exact fun s h _ => State.enterBlocked_view h
  case breakRewind => exact fun s h _ => rewind_view h _ _ (fun _ => rfl) _
  case adopt => exact fun s i e a _ _ hc hi => adopt_view s i e a hc hi
  case hear => exact fun s i h => hear_view h i
  case rule => exact fun s f h hm hv => State.ruleFor_view h hm hv
  case deliver => exact fun s m h => State.deliver_view h m
  case stopQuiet =>
    intro s h
    unfold State.stopQuiet
    split
    · exact h.of_same_dvu rfl rfl rfl rfl rfl rfl
    · exact h
  case restartQuiet =>
    intro s h
    unfold State.restartQuiet
    split
    · exact h.of_same_dvu rfl rfl rfl rfl rfl rfl
    · exact h
  all_goals
    intros
    refine ViewSound.of_same_dvu ‹ViewSound _› ?_ ?_ ?_ ?_ ?_ ?_
  all_goals simp [State.beginRun]

theorem viewSound_stepKept : StepKept ViewSound where
  toExecKept := viewSound_execKept
  pending _ _ h := h.of_same_dvu rfl rfl rfl rfl rfl rfl
  half _ h := h.of_same_dvu rfl rfl rfl rfl rfl rfl
  phase _ _ h := h.of_same_dvu rfl rfl rfl rfl rfl rfl
  ms _ h := h.of_same id rfl rfl rfl rfl rfl rfl h.gather

/-- Settles O59: `StepKept.step` of the view's soundness. -/
theorem everyStepKeepsTheViewSound : Obligations.EveryStepKeepsTheViewSound :=
  fun _ _ h hstep => viewSound_stepKept.step h hstep

end Sys2Proof.Machine

/-!
What a request leaves in the queue and in the slots while there is room (R158, R165), what an evaluation of the advance
condition does to both (R31), and what a release evaluation leaves as it was (R71).
-/

namespace Sys2Proof.Machine

/-! ### Requests with room -/

/-- R158: with room, a request takes no key away. -/
theorem Txq.request_keeps_key {q : Txq} {e x : Entry} (hl : q.entries.length < Config.queueCapacity)
    (hx : x ∈ q.entries) : x.key ∈ (q.request e).1.entries.map Entry.key := by
  by_cases hk : x.key = e.key
  · rw [hk]
    exact Txq.request_holds e (.inl hl)
  · exact List.mem_map_of_mem (Txq.request_keeps_other hl hx hk)

/-- Only an ANNOUNCE has the key ANNOUNCE. -/
theorem Entry.eq_announce {e : Entry} (h : e.key = .announce) : e = .announce := by
  cases e with
  | announce => rfl
  | _ => cases h

/-- R157, R158: with room, an ANNOUNCE that is asked for is pending. -/
theorem Txq.request_announce_mem {q : Txq} (hl : q.entries.length < Config.queueCapacity) :
    .announce ∈ (q.request .announce).1.entries := by
  obtain ⟨x, hx, hk⟩ := List.mem_map.1 (Txq.request_holds (q := q) .announce (.inl hl))
  exact Entry.eq_announce hk ▸ hx

/-! ### The advance condition evaluated (R31) -/

namespace State

variable {s : State}

theorem evalAdvance_txq_cases (s : State) :
    s.evalAdvance.txq = s.txq ∨ ∃ o n, s.evalAdvance.txq = (s.txq.request (.advance o n)).1 := by
  unfold State.evalAdvance
  split
  · exact .inr ⟨_, _, s.request_txq _⟩
  · exact .inl rfl

theorem evalAdvance_qru_room (h : s.txq.entries.length < Config.queueCapacity) : s.evalAdvance.qru = s.qru := by
  unfold State.evalAdvance
  split
  · exact State.request_qru_room _ h
  · rfl

/-- With room, an evaluation takes no entry away. -/
theorem mem_evalAdvance (h : s.txq.entries.length < Config.queueCapacity) {e : Entry} (he : e ∈ s.txq.entries) :
    e ∈ s.evalAdvance.txq.entries := by
  rcases s.evalAdvance_txq_cases with hq | ⟨o, n, hq⟩ <;> rw [hq]
  · exact he
  · exact Txq.request_keeps_room (.inl ⟨o, n, rfl⟩) h he

/-- An evaluation asks for no entry but an ADVANCE. -/
theorem mem_of_mem_evalAdvance {e : Entry} (he : e ∈ s.evalAdvance.txq.entries) (hk : e.key ≠ .advance) :
    e ∈ s.txq.entries := by
  rcases s.evalAdvance_txq_cases with hq | ⟨o, n, hq⟩ <;> rw [hq] at he
  · exact he
  · exact Txq.mem_of_mem_request he hk

theorem settleTerms_cases (s : State) (d : Dvu) : s.settleTerms d = s ∨ s.settleTerms d = s.evalAdvance := by
  unfold State.settleTerms
  split
  · exact .inr rfl
  · exact .inl rfl

theorem mem_settleTerms (h : s.txq.entries.length < Config.queueCapacity) (d : Dvu) {e : Entry}
    (he : e ∈ s.txq.entries) : e ∈ (s.settleTerms d).txq.entries := by
  rcases s.settleTerms_cases d with hs | hs <;> rw [hs]
  · exact he
  · exact mem_evalAdvance h he

theorem mem_of_mem_settleTerms (d : Dvu) {e : Entry} (he : e ∈ (s.settleTerms d).txq.entries) (hk : e.key ≠ .advance) :
    e ∈ s.txq.entries := by
  rcases s.settleTerms_cases d with hs | hs <;> rw [hs] at he
  · exact he
  · exact mem_of_mem_evalAdvance he hk

end State

/-! ### The release evaluated (R71) -/

/-- R9, R71: a release evaluation, seen in the own record that showed the board before. -/
theorem State.evalRelease_own {s : State} (hm : s.stc.station = .member) (hown : OwnSound s)
    (hready : (s.record s.self).ready = true → s.bsu.board = .ready) :
    s.evalRelease.record s.self = { s.record s.self with board := s.evalRelease.bsu.board } := by
  unfold State.evalRelease
  split
  · next hc =>
    obtain ⟨hheld, -⟩ := Bool.and_eq_true_iff.1 hc
    have hnr : (s.record s.self).ready = false := by
      cases hr : (s.record s.self).ready with
      | false => rfl
      | true => simp [hready hr] at hheld
    rw [(State.setBsu_follows s _).own, if_pos hm]
    simp [State.logPending, hnr, ← hown.rank, ← hown.budget, hown.logPending]
  · rw [← hown.board]

/-- R71, R72, R31: what a release evaluation and the evaluation of a changed view leave of a state `s` whose board has
become `b`. -/
structure ReleaseSettled (s : State) (b : Bsu) (t : State) : Prop where
  board  : ReleaseEvaluated b t
  domain : SameDomain s.dvu t.dvu
  timers : SameTimers s.dvu t.dvu
  others : ∀ i : StationId, i ≠ s.self → t.record i = s.record i
  room   : s.txq.entries.length < 12 → t.qru = s.qru ∧ ∀ e ∈ s.txq.entries, e ∈ t.txq.entries
  rest   : t.stc = s.stc ∧ t.lif = s.lif ∧ t.clg = s.clg ∧ t.lpt = s.lpt ∧ t.pending = s.pending

/-- The blocks of `s` but the board's, with the own record following. -/
structure BoardChanged (s u : State) : Prop where
  domain : SameDomain s.dvu u.dvu
  timers : SameTimers s.dvu u.dvu
  others : ∀ i : StationId, i ≠ s.self → u.record i = s.record i
  rest   : u.stc = s.stc ∧ u.lif = s.lif ∧ u.txq = s.txq ∧ u.qru = s.qru ∧ u.clg = s.clg ∧ u.lpt = s.lpt ∧
    u.pending = s.pending

theorem State.setBsu_changed (s : State) (b : Bsu) : BoardChanged s (s.setBsu b) :=
  ⟨s.setBsu_sameDomain b, s.setBsu_sameTimers b, (s.setBsu_follows b).others, by simp⟩

theorem State.putBsu_changed (s : State) (b : Bsu) : BoardChanged s (s.putBsu b) :=
  ⟨⟨rfl, rfl, rfl, rfl, rfl, rfl⟩, ⟨rfl, rfl, rfl, rfl⟩, fun _ _ => rfl, ⟨rfl, rfl, rfl, rfl, rfl, rfl, rfl⟩⟩

theorem BoardChanged.releaseSettled {s u : State} (h : BoardChanged s u) (d : Dvu) :
    ReleaseSettled s u.bsu (u.evalRelease.settleTerms d) := by
  obtain ⟨⟨hepoch, hbase, hfront, hgather, hexpired, hholds⟩, ⟨hannounce, hgatherTimer, hsettle, hlimit⟩, hothers,
    hstc, hlif, htxq, hqru, hclg, hlpt, hpending⟩ := h
  have hkeep := (State.evalRelease_others u).others
  constructor
  case board => exact u.evalRelease_evaluated.of_same (by simp) (by simp) (by simp) (by simp)
  case domain => constructor <;> simpa
  case timers => constructor <;> simpa
  case others =>
    intro i hi
    have hrec : (u.evalRelease.settleTerms d).record i = u.evalRelease.record i := by simp [State.record]
    rw [hrec, hkeep i (by simpa [State.self, hstc] using hi), hothers i hi]
  case room =>
    intro hl
    have hroom : u.evalRelease.txq.entries.length < Config.queueCapacity := by simpa [htxq, Config.queueCapacity] using hl
    refine ⟨?_, fun e he => State.mem_settleTerms hroom d (by simpa [htxq] using he)⟩
    rw [State.settleTerms_qru_room d hroom]
    simpa using hqru
  case rest => exact ⟨by simpa, by simpa, by simpa, by simpa, by simpa⟩

end Sys2Proof.Machine

/-!
The station's life: the state at reset and its invariants (R2, R70, R125, R126), the straps and the end of START (R108 to
R114), the ends of the listen-in and of the quiet time (R118, R121).
-/

namespace Sys2Proof.Machine

/-! ### Reset -/

/-- Settles O60: each invariant by what it says of a view, a board, slots and a line at reset. -/
theorem resetStateIsSound : Obligations.ResetStateIsSound :=
  ⟨.of_quiet .reset rfl rfl, ⟨Nat.zero_le _, fun i h => absurd h (Nat.not_lt_zero i)⟩,
    Bsu.Core.held rfl rfl (by decide) rfl rfl, .of_reset nofun rfl,
    ⟨⟨fun _ => ⟨rfl, rfl, rfl, rfl⟩, nofun⟩, ⟨nofun, nofun, nofun⟩⟩, .of_reset rfl, .of_start rfl rfl rfl⟩

theorem Lpt.cutOff_scs_ne_low (p : Lpt) : p.cutOff.scs ≠ .low := by
  unfold Lpt.cutOff
  dsimp only
  split <;> simp

/-- R2, R70, R142, R157, R168: every block but the Cause Log and the station's own registers at its reset value. -/
theorem resetApplied_of_blocks {t : State} (hstart : t.stc.station = .start ∧ t.stc.uptime = 0)
    (htimers : t.stc.startUpDelay = .stopped ∧ t.stc.listenIn = .stopped ∧ t.stc.quiet = .stopped)
    (hlif : t.lif = Lif.reset) (htxq : t.txq = Txq.reset) (hdvu : t.dvu = Dvu.reset) (hbsu : t.bsu = Bsu.reset)
    (hqru : t.qru = Qru.reset) (hlpt : ∃ p : Lpt, t.lpt = p.cutOff) : ResetApplied t := by
  obtain ⟨p, hp⟩ := hlpt
  refine ⟨hstart, htimers, ?view, ?board, ?line, ?queue, ?slots, ?fault, ?port⟩
  case view =>
    rw [hdvu]
    exact ⟨⟨rfl, rfl, rfl, rfl, rfl⟩, fun i => by simp [Dvu.reset], fun i => by simp [Dvu.reset, Record.reset],
      ⟨rfl, rfl, rfl, rfl⟩⟩
  case board =>
    rw [hbsu]
    exact ⟨rfl, rfl, rfl, rfl, rfl, ⟨rfl, rfl, rfl⟩⟩
  case line =>
    rw [hlif]
    exact ⟨rfl, rfl, rfl, rfl, ⟨rfl, rfl, rfl⟩⟩
  case queue =>
    rw [htxq]
    exact ⟨rfl, rfl, rfl⟩
  case slots =>
    intro i
    simp [hqru, Qru.reset, Slot.reset]
  case fault =>
    rw [hqru]
    rfl
  case port =>
    rw [hp]
    exact ⟨p.cutOff_scs_ne_low, rfl, rfl, rfl, rfl, rfl, rfl⟩

/-- Settles O5: both resets give every block its reset value but those that their statements name. -/
theorem resetsReturnTheStation : Obligations.ResetsReturnTheStation := by
  refine ⟨⟨?reset, rfl, rfl, rfl, rfl, rfl, rfl⟩, fun s => ⟨_, rfl, ?powerOn, rfl, rfl, rfl, rfl, rfl, rfl, rfl⟩,
    fun s => ⟨_, rfl, ?stationReset, rfl, rfl, rfl, rfl, rfl, ?stillPowerOn, ?otherwise⟩⟩
  case reset => exact resetApplied_of_blocks ⟨rfl, rfl⟩ ⟨rfl, rfl, rfl⟩ rfl rfl rfl rfl rfl ⟨Lpt.reset, rfl⟩
  case powerOn => exact resetApplied_of_blocks ⟨rfl, rfl⟩ ⟨rfl, rfl, rfl⟩ rfl rfl rfl rfl rfl ⟨s.lpt, rfl⟩
  case stationReset => exact resetApplied_of_blocks ⟨rfl, rfl⟩ ⟨rfl, rfl, rfl⟩ rfl rfl rfl rfl rfl ⟨s.lpt, rfl⟩
  case stillPowerOn => exact fun hstart hkind => if_pos ⟨hstart, hkind⟩
  case otherwise => exact fun hstart => if_neg fun h => hstart h.1

/-! ### The straps (R109, R110) -/

/-- The number on a strap's pins, bit by bit. -/
theorem pinsNumber_ofFn {n : Nat} (pin : Fin n → Level) :
    pinsNumber (List.ofFn pin) = ∑ i : Fin n, 2 ^ i.val * pinBit (pin i) := by
  induction n with
  | zero => rfl
  | succ n ih =>
    have hbit : ∀ l : Level, (if l = .high then 1 else 0) = pinBit l := fun l => by cases l <;> rfl
    rw [List.ofFn_succ, pinsNumber, ih, hbit, Fin.sum_univ_succ, Finset.mul_sum]
    simp [Nat.pow_succ', mul_assoc]

theorem strapValue_val {n : Nat} (pins : Vector Level n) :
    (strapValue pins).val = ∑ i : Fin n, 2 ^ i.val * pinBit pins[i] := by
  have hlist : pins.toList = List.ofFn fun i : Fin n => pins[i] := by
    exact List.ext_getElem (by simp) fun i _ _ => by simp
  change pinsNumber pins.toList = _
  rw [hlist, pinsNumber_ofFn]

theorem strapValue_two (pins : Vector Level 2) :
    strapValue pins = Fin.ofNat 4 (pinBit pins[0] + 2 * pinBit pins[1]) := by
  have hbit : ∀ l : Level, pinBit l ≤ 1 := fun l => by cases l <;> decide
  have h0 := hbit pins[0]
  have h1 := hbit pins[1]
  refine Fin.ext ?_
  rw [strapValue_val]
  simp [Fin.sum_univ_succ]
  omega

theorem strapsRead_readStraps (p : StrapPins) : StrapsRead p (readStraps p) := by
  constructor
  case id =>
    rw [readStraps, strapValue_val]
    simp [Fin.sum_univ_succ]
    omega
  case rank =>
    rw [readStraps, strapValue_val]
    simp [Fin.sum_univ_succ]
    omega
  case cont =>
    rw [readStraps, strapValue_val]
    simp [Fin.sum_univ_succ]
  case prof =>
    rw [readStraps, strapValue_two p.prof]
    cases p.prof[1] <;> cases p.prof[0] <;> rfl
  case lrate =>
    rw [readStraps, strapValue_two p.lrate]
    cases p.lrate[1] <;> cases p.lrate[0] <;> rfl
  case rest => exact ⟨rfl, rfl, rfl⟩

theorem strapTables : StrapTables := by
  constructor <;> rfl

/-! ### The end of START (R113, R114) -/

/-- R114: what the start leaves, the log with its reset record. -/
theorem State.leaveStart_left (s : State) (hst : s.stc.station = .start) (p : SampledPins) :
    (s.leaveStart p).clg = s.clg.appended (recordOf s.stc.startKind.cause none (some s.self) s.dvu.epoch none
      s.stc.uptime false) ∧ (s.leaveStart p).dvu = s.dvu ∧ (s.leaveStart p).txq = s.txq ∧ (s.leaveStart p).qru = s.qru := by
  have hdvu := State.append_dvu_off (s := s) (by simp [hst]) s.stc.startKind.cause none (some s.self) none false
  exact ⟨by simp [State.leaveStart, State.append_clg], by simpa [State.leaveStart] using hdvu,
    by simp [State.leaveStart], by simp [State.leaveStart]⟩

theorem StartKind.cause_eq (k : StartKind) : k.cause = if k = .powerOn then .powerOn else .stnReset := by
  cases k <;> rfl

/-- R113: a release of the source that a reset comes from. -/
theorem exec_resetRelease_of_applied {s : State} {r : ResetSource} (hst : s.stc.station = .start)
    (ha : s.stc.applies r = true) :
    exec (.resetRelease r) s = .next (s.setStc (s.stc.release r).startDelay) := if_pos ⟨hst, ha⟩

theorem Stc.startDelay_of_released {c : Stc} (hp : c.porApplied = false) (hs : c.srstApplied = false) :
    c.startDelay = { c with startUpDelay := .running Config.startUpDelayMs } := by
  simp [Stc.startDelay, hp, hs]

theorem Stc.startDelay_of_applied {c : Stc} (h : c.porApplied = true ∨ c.srstApplied = true) : c.startDelay = c := by
  unfold Stc.startDelay
  rw [if_pos (by simpa using h)]

/-- R113: the delay starts at the release of the last reset applied. -/
theorem resetRelease_starts_the_delay {s : State} (hst : s.stc.station = .start) :
    (s.stc.porApplied = true → s.stc.srstApplied = false → exec (.resetRelease .supply) s =
      .next { s with stc := { s.stc with porApplied := false, startUpDelay := .running 10 } }) ∧
    (s.stc.porApplied = false → s.stc.srstApplied = true → exec (.resetRelease .srstN) s =
      .next { s with stc := { s.stc with srstApplied := false, startUpDelay := .running 10 } }) ∧
    (s.stc.porApplied = true → s.stc.srstApplied = true → exec (.resetRelease .supply) s =
      .next { s with stc := { s.stc with porApplied := false } }) ∧
    (s.stc.porApplied = true → s.stc.srstApplied = true → exec (.resetRelease .srstN) s =
      .next { s with stc := { s.stc with srstApplied := false } }) := by
  refine ⟨fun hp hs => ?_, fun hp hs => ?_, fun hp hs => ?_, fun hp hs => ?_⟩
  · rw [exec_resetRelease_of_applied (r := .supply) hst hp, Stc.startDelay_of_released (c := s.stc.release .supply) rfl hs]
    rfl
  · rw [exec_resetRelease_of_applied (r := .srstN) hst hs, Stc.startDelay_of_released (c := s.stc.release .srstN) hp rfl]
    rfl
  · rw [exec_resetRelease_of_applied (r := .supply) hst hp, Stc.startDelay_of_applied (c := s.stc.release .supply) (.inr hs)]
    rfl
  · rw [exec_resetRelease_of_applied (r := .srstN) hst hs, Stc.startDelay_of_applied (c := s.stc.release .srstN) (.inl hp)]
    rfl

/-- Settles O6: the releases by whether another reset is applied, the straps bit by bit, the end of the delay by what
`State.leaveStart` leaves. -/
theorem startLastsForTheStartUpDelay : Obligations.StartLastsForTheStartUpDelay := by
  refine ⟨fun s hst => resetRelease_starts_the_delay hst, strapsRead_readStraps, strapTables, ?expiry⟩
  rintro s p c rfl hst hrunning
  set u := s.setStc { s.stc with straps := readStraps p.straps } with hu
  obtain ⟨hclg, hdvu, htxq, hqru⟩ := u.leaveStart_left hst p
  refine ⟨u.leaveStart p, if_pos ⟨hst, hrunning⟩, rfl, ?straps, rfl, rfl, ?uptime, ?log, ?board, rfl, rfl, rfl, rfl, ?alert,
    htxq, hdvu, hqru, ?pending⟩
  case log => rw [hclg, StartKind.cause_eq]; rfl
  case board =>
    simp [State.leaveStart, u, State.profile]
    rfl
  case alert =>
    refine (State.alertN_eq_low_iff _).2 ⟨nofun, .inl ?_⟩
    rw [hclg]
    simp [Clg.appended]
  case straps | uptime | pending => simp [State.leaveStart, u]

/-! ### The quiet timer (R121) -/

/-- Settles O8: outside MEMBER a board that returns to HELD leaves the view as it is. -/
theorem quietLineLeadsToListen : Obligations.QuietLineLeadsToListen := by
  intro s hst hrunning
  set u := s.setStc { s.stc with station := .listen, quiet := .stopped, listenIn := .running (listenInterval s.profile) }
    with hu
  refine ⟨u.holdRunning, if_pos ⟨hst, hrunning⟩, ?_, u.holdRunning_returned, ?queue, State.holdRunning_dvu_off (by simp [u]),
    ?_, ?_, ?_, ?_, ?_⟩
  case queue =>
    unfold State.holdRunning State.running
    split <;> simp_all [State.contain, State.cancel]
  all_goals simp [u, listenInterval]

/-! ### Founding (R118) -/

/-- R25, R100: the view at founding, before the own record is written. -/
def State.founding (s : State) : State :=
  let d : Dvu := { s.dvu with announce := .running (announcePeriod s.profile)
                              holdLimit := foundingHoldLimit s.dvu s.self s.profile }
  (s.setStc { s.stc with station := .member, listenIn := .stopped }).setDvu
    (if frontIsRank d.front then d.startSettle s.profile else d)

/-- R63: the state of founding once the START fault has been asked for. -/
def State.startAsked (s : State) : State := s.founding.makeOwnPresent.request (.fault ⟨.start, .domain, s.rank, 0⟩)

theorem State.found_eq (s : State) : s.found = s.startAsked.evalRelease.evalAdvance := rfl

theorem State.startAsked_frame (s : State) :
    s.startAsked.stc = { s.stc with station := .member, listenIn := .stopped } ∧ s.startAsked.bsu = s.bsu ∧
    s.startAsked.clg = s.clg ∧ s.startAsked.txq = (s.txq.request (.fault ⟨.start, .domain, s.rank, 0⟩)).1 := by
  simp [State.startAsked, State.founding]

theorem State.founding_frame (s : State) : SameDomain s.dvu s.founding.dvu ∧ s.founding.dvu.records = s.dvu.records ∧
    s.founding.dvu.announce = .running (announcePeriod s.profile) ∧
    s.founding.dvu.gatherTimer = s.dvu.gatherTimer ∧
    s.founding.dvu.holdLimit = (if s.dvu.holdSet[s.self] then .running (holdLimitInterval s.profile) else s.dvu.holdLimit) ∧
    s.founding.dvu.settle =
      if frontIsRank s.dvu.front then .running (settleInterval s.profile) else s.dvu.settle := by
  unfold State.founding
  dsimp only
  split
  · next hf => exact ⟨⟨rfl, rfl, rfl, rfl, rfl, rfl⟩, rfl, rfl, rfl, rfl, if_pos hf⟩
  · exact ⟨⟨rfl, rfl, rfl, rfl, rfl, rfl⟩, rfl, rfl, rfl, rfl, rfl⟩

/-- R9, R25: the own record as founding writes it, and the others as they were. -/
theorem State.founding_record (s : State) (i : StationId) : s.founding.makeOwnPresent.record i = if i = s.self then
    ⟨true, s.rank, s.bsu.board, false, false, 0, s.dvu.epoch, false, s.bsu.budget, s.logPending⟩ else s.record i := by
  obtain ⟨⟨hepoch, -⟩, hrecords, -⟩ := s.founding_frame
  have hrec : ∀ j, s.founding.record j = s.record j := fun j => by rw [State.record, State.record, hrecords]
  rw [State.makeOwnPresent, record_updateRecord, hrec i]
  refine if_congr Iff.rfl ?_ rfl
  rw [hepoch]
  rfl

/-- R118, R71: the own record once founding has evaluated the release. -/
theorem State.found_record (s : State) (i : StationId) : s.found.record i = if i = s.self then
    ⟨true, s.rank, s.found.bsu.board, false, false, 0, s.dvu.epoch, false, s.bsu.budget, s.logPending⟩
    else s.record i := by
  obtain ⟨hstc, hbsu, hclg, htxq⟩ := s.startAsked_frame
  set u := s.startAsked with hu
  have hrec : ∀ j, u.record j = s.founding.makeOwnPresent.record j := fun j => by simp [State.record, u, State.startAsked]
  have hlast : s.found.record i = u.evalRelease.record i := by simp [State.found_eq, State.record, u]
  have hboard : s.found.bsu = u.evalRelease.bsu := by simp [State.found_eq, u]
  have hself : u.self = s.self := by simp [State.self, hstc]
  have hown : u.record u.self =
      ⟨true, s.rank, s.bsu.board, false, false, 0, s.dvu.epoch, false, s.bsu.budget, s.logPending⟩ := by
    rw [hrec, hself, State.founding_record, if_pos rfl]
  rw [hlast, hboard]
  split
  · next h =>
    rw [h, ← hself, State.evalRelease_own (by simp [hstc]) ?shows (by simp [hown]), hown]
    case shows =>
      rw [ownSound_iff, hown]
      refine ⟨rfl, ?_, ?_, ?_, ?_, rfl⟩ <;> simp [hstc, hbsu, hclg, State.rank, State.logPending]
  · next h =>
    rw [(State.evalRelease_others u).others i (by rwa [hself]), hrec, State.founding_record, if_neg h]

/-- R49, R50: the START fault of founding joins the queue, or replaces the fields of the one that waits. -/
theorem State.found_fault {s : State} (hq : s.txq.Sound) (hflight : s.txq.inFlight = none) :
    (s.txq.holds .fault = false → .fault ⟨.start, .domain, s.rank, 0⟩ ∈ s.found.txq.entries) ∧
    ∀ f, .fault f ∈ s.txq.entries → .fault ⟨.start, .domain, f.senderRank, 0⟩ ∈ s.found.txq.entries := by
  obtain ⟨hstc, hbsu, hclg, htxq⟩ := s.startAsked_frame
  set u := s.startAsked with hu
  have hlift : ∀ g, .fault g ∈ u.txq.entries → .fault g ∈ s.found.txq.entries := by
    intro g hg
    have hsound : u.txq.Sound := by rw [htxq]; exact hq.request _
    rcases u.evalRelease.evalAdvance_txq_cases with h | ⟨o, n, h⟩ <;> rw [State.found_eq, h, State.evalRelease_txq]
    · exact hg
    · exact hsound.fault_mem_advance hg o n
  obtain ⟨hnew, hmerged, -⟩ := hq.request_fault ⟨.start, .domain, s.rank, 0⟩
  refine ⟨fun h => hlift _ (htxq ▸ hnew h), fun f hf => hlift _ ?_⟩
  have hm := hmerged f hf (by simp [hflight])
  rw [mergeFault_of_replaced (.inl rfl)] at hm
  rwa [htxq]

/-- R158, R165: with room for the START fault and an ADVANCE, founding drops no query and takes no key away. -/
theorem State.found_room {s : State} (h : s.txq.entries.length ≤ 10) :
    s.found.qru = s.qru ∧ ∀ e ∈ s.txq.entries, e.key ∈ s.found.txq.entries.map Entry.key := by
  obtain ⟨hstc, hbsu, hclg, htxq⟩ := s.startAsked_frame
  set u := s.startAsked with hu
  have hlen := Txq.request_length s.txq (.fault ⟨.start, .domain, s.rank, 0⟩)
  have hroom : u.evalRelease.txq.entries.length < Config.queueCapacity := by
    rw [State.evalRelease_txq, htxq]
    simp only [Config.queueCapacity]
    omega
  constructor
  · have hqru : u.qru = s.qru := State.request_qru_room (s := s.founding.makeOwnPresent) _ (by
      simp only [State.founding, State.makeOwnPresent_txq, Config.queueCapacity]
      exact Nat.lt_of_le_of_lt h (by decide))
    rw [State.found_eq, State.evalAdvance_qru_room hroom, State.evalRelease_qru, hqru]
  · intro e he
    have hk := Txq.request_keeps_key (e := .fault ⟨.start, .domain, s.rank, 0⟩) (by simp only [Config.queueCapacity]; omega) he
    obtain ⟨x, hx, hxk⟩ := List.mem_map.1 hk
    exact List.mem_map.2 ⟨x, State.mem_evalAdvance hroom (by rwa [State.evalRelease_txq, htxq]), hxk⟩

/-- Settles O7: founding by what it writes into the view, the own record, the queue and the board. -/
theorem foundingKeepsTheViewAndRequestsStart : Obligations.FoundingKeepsTheViewAndRequestsStart := by
  intro s hst hrunning hq hflight
  obtain ⟨⟨hepoch, hbase, hfront, hgather, hexpired, hholds⟩, -, hannounce, hgatherTimer, hlimit, hsettle⟩ :=
    s.founding_frame
  obtain ⟨hnew, hreplaced⟩ := State.found_fault hq hflight
  refine ⟨s.found, if_pos ⟨hst, hrunning⟩, ?stc, ?domain, ?announce, ?limit, ?settle, ?gatherTimer, fun i hi => ?other,
    ?own, hnew, hreplaced, State.found_room, ?release, by simp, by simp, by simp, by simp⟩
  case stc => simp [State.found_eq, State.startAsked, State.founding]
  case domain => constructor <;> simpa [State.found_eq, State.startAsked]
  case announce => simpa [State.found_eq, State.startAsked] using hannounce
  case limit => simpa [State.found_eq, State.startAsked] using hlimit
  case settle =>
    cases hf : s.dvu.front with
    | none | all | rank k => simpa [State.found_eq, State.startAsked, hf, frontIsRank] using hsettle
  case gatherTimer => simpa [State.found_eq, State.startAsked] using hgatherTimer
  case other => rw [State.found_record, if_neg hi]
  case own => rw [State.found_record, if_pos rfl]
  case release =>
    obtain ⟨-, hbsu, -⟩ := s.startAsked_frame
    exact hbsu ▸ s.startAsked.evalRelease_evaluated.of_same (by simp [State.found_eq]) (by simp [State.found_eq])
      (by simp [State.found_eq]) (by simp [State.found_eq])

end Sys2Proof.Machine

/-!
What the operations of the line do, said once: a run past 9 T and a stuck line (R152, R155), the limits told once, a
collision (R147), and a break's release, which commutes with them (R153).
-/

namespace Sys2Proof.Machine

variable {s : State}

/-! ### An attempt that ends (R146, R161) -/

theorem Drive.stopFrame_of_not_isFrame {d : Drive} (h : d.isFrame = false) : d.stopFrame = d := by
  cases d with
  | frame f n => cases h
  | _ => rfl

/-- R161: with nothing in flight the queue is as it was. -/
theorem AttemptFailed.eq_of_none {q r : Txq} (h : AttemptFailed q r) (hn : q.inFlight = none) : r = q := h.1 hn

theorem State.endAttempt_eq (s : State) : s.endAttempt = { s with txq := s.txq.fail, lif := s.lif.stopSending } := rfl

/-! ### A run past 9 T (R152) -/

/-- R150, R151: the counter once a frame in reception has been discarded. -/
def Receive.errorsAfter (rx : Receive) (n : BitVec 16) : BitVec 16 :=
  match rx with
  | .outside => n
  | .inFrame r => if r.exempt then n else countError n

theorem countError_eq (n : BitVec 16) : countError n = if n = 65535 then n else n + 1 := rfl

theorem State.discardFrame_of_outside (h : s.lif.receive = .outside) : s.discardFrame = s := by
  unfold State.discardFrame
  rw [h]

theorem State.discardFrame_of_inFrame {r : Reception} (h : s.lif.receive = .inFrame r) :
    s.discardFrame = s.setLif { s.lif.restartIdle with
      receive := .outside, rxErrors := if r.exempt then s.lif.rxErrors else countError s.lif.rxErrors } := by
  unfold State.discardFrame
  rw [h]

theorem State.discardFrame_lif_eq (s : State) : ∃ idle gap, s.discardFrame.lif = { s.lif with
    receive := .outside, rxErrors := s.lif.receive.errorsAfter s.lif.rxErrors, idle := idle, gapTaken := gap } := by
  cases h : s.lif.receive with
  | outside =>
    refine ⟨s.lif.idle, s.lif.gapTaken, ?_⟩
    rw [State.discardFrame_of_outside h]
    show s.lif = { s.lif with receive := .outside }
    rw [← h]
  | inFrame r => exact ⟨0, false, by rw [State.discardFrame_of_inFrame h]; rfl⟩

@[simp] theorem Receive.errorsAfter_exempted (rx : Receive) (n : BitVec 16) : rx.exempted.errorsAfter n = n := by
  cases rx <;> rfl

theorem State.stopQuiet_stc (s : State) :
    s.stopQuiet.stc = { s.stc with quiet := if s.stc.station = .isolated then .stopped else s.stc.quiet } := by
  unfold State.stopQuiet
  split <;> rfl

/-- R152, R147, R150, R151: what a run past 9 T makes of the line. -/
theorem State.passLong_lif (s : State) : ∃ idle gap, s.passLong.lif = { s.lif with
    runClass := .long, runLength := max s.lif.runLength (Config.longHalves + 1), receive := .outside
    drive := s.lif.drive.stopFrame, mismatch := false, idle := idle, gapTaken := gap
    rxErrors := if s.lif.attempting then s.lif.rxErrors else s.lif.receive.errorsAfter s.lif.rxErrors } := by
  unfold State.passLong
  dsimp only
  split
  · next ha =>
    obtain ⟨idle, gap, h⟩ := State.discardFrame_lif_eq (s.setLif { s.lif with
      runClass := .long, runLength := max s.lif.runLength (Config.longHalves + 1) }).exemptFrame.endAttempt
    exact ⟨idle, gap, by simp [h]⟩
  · next ha =>
    obtain ⟨hframe, hmis⟩ : s.lif.drive.isFrame = false ∧ s.lif.mismatch = false := by simpa [Lif.attempting] using ha
    obtain ⟨idle, gap, h⟩ := State.discardFrame_lif_eq (s.setLif { s.lif with
      runClass := .long, runLength := max s.lif.runLength (Config.longHalves + 1) })
    exact ⟨idle, gap, by simpa [hmis, Drive.stopFrame_of_not_isFrame hframe] using h⟩

/-- R121: a run past 9 T stops the quiet timer. -/
theorem State.passLong_stc (s : State) :
    s.passLong.stc = { s.stc with quiet := if s.stc.station = .isolated then .stopped else s.stc.quiet } := by
  unfold State.passLong
  dsimp only
  split <;> simp [State.stopQuiet_stc]

/-- R152, R161: a run past 9 T fails what is in flight. -/
theorem State.passLong_txq (s : State) : s.passLong.txq = if s.lif.attempting then s.txq.fail else s.txq := by
  unfold State.passLong
  dsimp only
  split <;> simp

/-! ### A stuck line (R155) -/

/-- R152, R155: the state at 4096 T before the trigger: a run not told long is told so first. -/
def State.stuckReached (s : State) : State :=
  let s1 := if s.lif.runClass = .ordinary then s.passLong else s
  s1.setLif { s1.lif with runClass := .stuck, runLength := Config.stuckHalves }

theorem State.passStuck_eq (s : State) : s.passStuck = s.stuckReached.stuckTrigger := rfl

theorem State.stuckTrigger_of_listening {u : State} (h : u.stc.station = .listen ∨ u.stc.station = .member) :
    u.stuckTrigger = u.enterIsolated false := by
  unfold State.stuckTrigger
  rcases h with h | h <;> rw [h]

theorem State.stuckTrigger_of_deaf {u : State} (hl : u.stc.station ≠ .listen) (hm : u.stc.station ≠ .member) :
    u.stuckTrigger = u := by
  unfold State.stuckTrigger
  cases h : u.stc.station with
  | listen => exact absurd h hl
  | member => exact absurd h hm
  | _ => rfl

@[simp] theorem State.stuckReached_dvu (s : State) : s.stuckReached.dvu = s.dvu := by
  unfold State.stuckReached
  dsimp only
  split <;> simp

@[simp] theorem State.stuckReached_bsu (s : State) : s.stuckReached.bsu = s.bsu := by
  unfold State.stuckReached
  dsimp only
  split <;> simp

@[simp] theorem State.stuckReached_qru (s : State) : s.stuckReached.qru = s.qru := by
  unfold State.stuckReached
  dsimp only
  split <;> simp

@[simp] theorem State.stuckReached_clg (s : State) : s.stuckReached.clg = s.clg := by
  unfold State.stuckReached
  dsimp only
  split <;> simp

@[simp] theorem State.stuckReached_pending (s : State) : s.stuckReached.pending = s.pending := by
  unfold State.stuckReached
  dsimp only
  split <;> simp

theorem State.stuckReached_run (s : State) : s.stuckReached.lif.runLength = 8192 ∧ s.stuckReached.lif.runClass = .stuck ∧
    s.stuckReached.lif.lineDominant = s.lif.lineDominant := by
  obtain ⟨idle, gap, hlif⟩ := s.passLong_lif
  unfold State.stuckReached
  dsimp only
  split
  · exact ⟨rfl, rfl, by simp [hlif]⟩
  · exact ⟨rfl, rfl, rfl⟩

theorem State.stuckReached_stopFrame (s : State) : s.stuckReached.lif.drive.stopFrame = s.lif.drive.stopFrame := by
  unfold State.stuckReached
  dsimp only
  split
  · simp [State.passLong_drive, ← Drive.stopFrame_eq, Drive.stopFrame_of_not_isFrame]
  · rfl

/-- R121, R152: the station's registers but for a quiet timer that has stopped. -/
theorem State.stuckReached_stc (s : State) : ∃ t, s.stuckReached.stc = { s.stc with quiet := t } := by
  unfold State.stuckReached
  dsimp only
  split
  · exact ⟨_, s.passLong_stc⟩
  · exact ⟨_, rfl⟩

theorem State.stuckReached_txq (s : State) : s.stuckReached.txq = s.txq ∨ s.stuckReached.txq = s.txq.fail := by
  unfold State.stuckReached
  dsimp only
  split
  · rw [State.setLif_txq, State.passLong_txq]
    split
    · exact .inr rfl
    · exact .inl rfl
  · exact .inl rfl

/-- R161: a failure after a failure finds nothing in flight. -/
theorem AttemptFailed.of_twice {p q : Txq} (h : AttemptFailed p.fail q) : AttemptFailed p q := by
  rw [h.idle (by simp)]
  exact p.fail_failed

theorem State.stuckReached_failed {q : Txq} (h : AttemptFailed s.stuckReached.txq q) : AttemptFailed s.txq q := by
  rcases s.stuckReached_txq with ht | ht <;> rw [ht] at h
  · exact h
  · exact h.of_twice

/-! ### The limits are told once (R152, R155) -/

theorem State.receiving_iff (s : State) : s.receiving = true ↔ s.stc.station ≠ .start := by
  simp [State.receiving]

theorem State.stuckTrigger_run (u : State) : u.stuckTrigger.lif.runClass = u.lif.runClass ∧
    u.stuckTrigger.lif.lineDominant = u.lif.lineDominant ∧
    (u.stuckTrigger.stc.station = .start ↔ u.stc.station = .start) := by
  by_cases h : u.stc.station = .listen ∨ u.stc.station = .member
  · rw [State.stuckTrigger_of_listening h, State.enterIsolated_lif]
    refine ⟨rfl, rfl, ?_⟩
    obtain ⟨hst, -⟩ := (u.enterIsolated_entered false nofun).station
    rcases h with h | h <;> simp [hst, h]
  · rw [State.stuckTrigger_of_deaf (fun e => h (.inl e)) (fun e => h (.inr e))]
    exact ⟨rfl, rfl, Iff.rfl⟩

theorem State.passLong_told (h : s.lif.runLength < 8192) : LimitsTold s.passLong.lif := by
  obtain ⟨idle, gap, hlif⟩ := s.passLong_lif
  rw [hlif]
  refine fun _ => ⟨fun _ => nofun, fun hlen => ?_⟩
  simp only [Config.longHalves] at hlen
  omega

theorem State.passStuck_told (s : State) : LimitsTold s.passStuck.lif := by
  obtain ⟨-, hclass, -⟩ := s.stuckReached_run
  obtain ⟨hkept, -, -⟩ := s.stuckReached.stuckTrigger_run
  have h : s.passStuck.lif.runClass = .stuck := hkept.trans hclass
  exact fun _ => ⟨fun _ => by simp [h], fun _ => h⟩

theorem State.tellLimits_of_long (hs : s.stc.station ≠ .start) (hd : s.lif.lineDominant = true)
    (hl : 18 < s.lif.runLength) (hlt : s.lif.runLength < 8192) (hc : s.lif.runClass = .ordinary) :
    s.tellLimits = s.passLong := by
  unfold State.tellLimits State.reachLimits
  rw [if_pos (by simp [(State.receiving_iff s).2 hs, hd]), if_neg (by simpa [Config.stuckHalves] using hlt),
    if_pos ⟨hl, hc⟩]

theorem State.tellLimits_of_stuck (hs : s.stc.station ≠ .start) (hd : s.lif.lineDominant = true)
    (hl : 8192 ≤ s.lif.runLength) (hc : s.lif.runClass ≠ .stuck) : s.tellLimits = s.passStuck := by
  unfold State.tellLimits State.reachLimits
  rw [if_pos (by simp [(State.receiving_iff s).2 hs, hd]),
    if_pos (show Config.stuckHalves ≤ s.lif.runLength from hl), if_neg hc]

theorem exec_longRunStart (hs : s.stc.station ≠ .start) (hd : s.lif.lineDominant = true)
    (hc : s.lif.runClass = .ordinary) : exec .longRunStart s = .next s.passLong :=
  if_pos ⟨(State.receiving_iff s).2 hs, hd, hc⟩

theorem exec_stuckLine (hs : s.stc.station ≠ .start) (hd : s.lif.lineDominant = true)
    (hc : s.lif.runClass ≠ .stuck) : exec .stuckLine s = .next s.passStuck :=
  if_pos ⟨(State.receiving_iff s).2 hs, hd, hc⟩

/-- The limits of a run come before a command that tells them first: told once, they are not told again. -/
theorem limitsFirst_of_exec {c : Instr} {F : State → State} (hs : s.stc.station ≠ .start)
    (hexec : ∀ u : State, u.stc.station ≠ .start → u.lif.lineDominant = s.lif.lineDominant →
      exec c u = .next (F u.tellLimits)) : LimitsFirst c s := by
  constructor
  case long =>
    intro hd hl hlt hc
    have hstc : s.passLong.stc.station ≠ .start := by rwa [State.passLong_stc]
    refine ⟨s.passLong, exec_longRunStart hs hd hc, ?_⟩
    rw [hexec s hs rfl, hexec _ hstc s.passLong_lineDominant, State.tellLimits_of_long hs hd hl hlt hc,
      State.tellLimits_told (State.passLong_told hlt)]
  case stuck =>
    intro hd hl hc
    obtain ⟨-, -, hdom⟩ := s.stuckReached_run
    obtain ⟨-, hkept, hstart⟩ := s.stuckReached.stuckTrigger_run
    obtain ⟨t, hstc⟩ := s.stuckReached_stc
    have hs' : s.passStuck.stc.station ≠ .start := by
      rw [State.passStuck_eq, Ne, hstart, hstc]
      exact hs
    refine ⟨s.passStuck, exec_stuckLine hs hd hc, ?_⟩
    rw [hexec s hs rfl, hexec _ hs' (hkept.trans hdom), State.tellLimits_of_stuck hs hd hl hc,
      State.tellLimits_told s.passStuck_told]

/-! ### A collision is reported once (R147) -/

/-- R147: the line after a collision: the attempt is driven no more and awaits nothing. -/
theorem State.collide_lif (s : State) : s.collide.lif =
    { s.lif with drive := s.lif.drive.stopFrame, mismatch := false, collisions := bumpCollisions s.lif.collisions } := by
  unfold State.collide
  dsimp only
  split <;> simp [State.enterBlocked_lif, Lif.stopSending, Drive.stopFrame_of_not_isFrame]

theorem State.collide_station_ne_start (hs : s.stc.station ≠ .start) : s.collide.stc.station ≠ .start := by
  unfold State.collide
  dsimp only
  split
  · simp [State.enterBlocked_entered _ |>.station]
  · simpa using hs

theorem State.collide_told (s : State) : CollisionTold s.collide.lif := by
  rw [State.collide_lif]
  exact fun _ => rfl

theorem exec_collisionAfterArbitration (h : s.lif.attempting = true) (hc : s.lif.runClass = .ordinary)
    (hl : s.lif.runLength ≤ Config.longHalves) : exec .collisionAfterArbitration s = .next s.collide :=
  if_pos ⟨h, hc, hl⟩

/-- A collision whose run has ended comes before a command that settles it first: reported once, it is not reported
again. -/
theorem collisionFirst_of_exec {c : Instr} {F : State → State} (hs : s.stc.station ≠ .start)
    (hexec : ∀ u : State, u.stc.station ≠ .start → u.lif.lineDominant = false →
      exec c u = .next (F u.settleCollision)) : CollisionFirst c s := by
  intro hsound hd hm
  obtain ⟨hlen, hclass⟩ := hsound.recessive hd
  have hd' : s.collide.lif.lineDominant = false := s.collide_lineDominant.trans hd
  refine ⟨s.collide, exec_collisionAfterArbitration (by simp [Lif.attempting, hm]) hclass (by simp [hlen]), ?_⟩
  rw [hexec s hs hd, hexec _ (State.collide_station_ne_start hs) hd', State.settleCollision_due hs hd hm,
    State.settleCollision_told s.collide_told]

/-! ### A break's release commutes with what is told before it (R153) -/

namespace State

variable (s : State) (l : Lif)

theorem mirrorOwn_setLif : (s.setLif l).mirrorOwn = s.mirrorOwn.setLif l := by
  unfold State.mirrorOwn
  by_cases h : s.isMember = true
  · rw [if_pos h, if_pos (show (s.setLif l).isMember = true from h)]
    rfl
  · rw [if_neg h, if_neg (show ¬(s.setLif l).isMember = true from h)]

theorem makeRoom_setLif : (s.setLif l).makeRoom = s.makeRoom.setLif l := by
  unfold State.makeRoom
  by_cases h : s.clg.records.length < Config.logCapacity
  · rw [if_pos h, if_pos (show (s.setLif l).clg.records.length < Config.logCapacity from h)]
  · rw [if_neg h, if_neg (show ¬(s.setLif l).clg.records.length < Config.logCapacity from h)]
    rfl

theorem append_setLif (c : Cause) (sc : Option Scope) (o : Option StationId) (b : Option Rank) (d : Bool) :
    (s.setLif l).append c sc o b d = (s.append c sc o b d).setLif l := by
  unfold State.append
  rw [makeRoom_setLif]
  exact mirrorOwn_setLif (s.makeRoom.pushRecord (s.causeRecord c sc o b d)) l

theorem setBsu_setLif (b : Bsu) : (s.setLif l).setBsu b = (s.setBsu b).setLif l := mirrorOwn_setLif (s.putBsu b) l

theorem contain_setLif (t : BoardState) : (s.setLif l).contain t = (s.contain t).setLif l := by
  unfold State.contain
  rw [setBsu_setLif]
  rfl

theorem holdRunning_setLif : (s.setLif l).holdRunning = s.holdRunning.setLif l := by
  unfold State.holdRunning
  rw [contain_setLif]
  by_cases h : s.running = true
  · rw [if_pos h, if_pos (show (s.setLif l).running = true from h)]
  · rw [if_neg h, if_neg (show ¬(s.setLif l).running = true from h)]

theorem blockBoard_setLif : (s.setLif l).blockBoard = s.blockBoard.setLif l := by
  cases h : s.bsu.board <;> simp only [State.blockBoard, State.setLif_bsu, h]
  case runup | ready => exact contain_setLif ..
  case recover => exact setBsu_setLif ..

/-- R120: the station's registers and the queue at entry to ISOLATED, the line left aside. -/
def isolatedBase (s : State) : State :=
  { s with stc := { s.stc with station := .isolated, listenIn := .stopped, quiet := s.quietAtEntry }
           txq := s.txq.fail, lif := Lif.reset }

/-- R120: the state of an entry to ISOLATED before the board's part, the line left aside. -/
def isolating (s : State) (d : Bool) : State :=
  (s.isolatedBase.append .isolated none (some s.self) none d).setDvu s.dvu.stopTimers

theorem enterIsolated_eq (d : Bool) : s.enterIsolated d =
    (if s.stc.straps.isoPol = .low then (s.isolating d).holdRunning else s.isolating d).setLif
      { s.lif.stopSending with collisions := 0, driveFaults := 0 } := by
  have happend := append_setLif s.isolatedBase { s.lif.stopSending with collisions := 0, driveFaults := 0 } .isolated
    none (some s.self) none d
  have hdvu := congrArg (fun t => State.setDvu t s.dvu.stopTimers) happend
  by_cases h : s.stc.straps.isoPol = .low
  · rw [if_pos h]
    exact ((if_pos h).trans (congrArg State.holdRunning hdvu)).trans (holdRunning_setLif (s.isolating d) _)
  · rw [if_neg h]
    exact (if_neg h).trans hdvu

/-- R120, R153: entry to ISOLATED leaves of the line what is not the attempt's; a release is not undone by it. -/
theorem enterIsolated_releaseBreak (d : Bool) : s.releaseBreak.enterIsolated d = (s.enterIsolated d).releaseBreak := by
  rw [enterIsolated_eq, enterIsolated_eq]
  rfl

/-- R123: the station's registers, the queue and the slots at entry to BLOCKED, the line left aside. -/
def blockedBase (s : State) : State :=
  { s with stc := { s.stc with station := .blocked }, txq := Txq.reset, lif := Lif.reset
           qru := { s.qru with slots := mapTable (fun _ sl => sl.startStopped s.profile) s.qru.slots } }

/-- R123: the state of an entry to BLOCKED before the board's part, the line left aside. -/
def blocking (s : State) : State := (s.blockedBase.append .dupId none (some s.self) none).setDvu s.dvu.stopTimers

theorem enterBlocked_eq : s.enterBlocked = s.blocking.blockBoard.setLif s.lif.stopSending := by
  have happend := append_setLif s.blockedBase s.lif.stopSending .dupId none (some s.self) none false
  have hdvu := congrArg (fun t => State.setDvu t s.dvu.stopTimers) happend
  exact (congrArg State.blockBoard hdvu).trans (blockBoard_setLif s.blocking _)

theorem enterBlocked_releaseBreak : s.releaseBreak.enterBlocked = s.enterBlocked.releaseBreak := by
  rw [enterBlocked_eq, enterBlocked_eq]
  rfl

theorem discardFrame_releaseBreak : s.releaseBreak.discardFrame = s.discardFrame.releaseBreak := by
  cases h : s.lif.receive with
  | outside =>
    rw [State.discardFrame_of_outside h, State.discardFrame_of_outside (s := s.releaseBreak) h]
  | inFrame r =>
    rw [State.discardFrame_of_inFrame h, State.discardFrame_of_inFrame (s := s.releaseBreak) h]
    rfl

theorem stopQuiet_releaseBreak : s.releaseBreak.stopQuiet = s.stopQuiet.releaseBreak := by
  unfold State.stopQuiet
  by_cases h : s.stc.station = .isolated
  · rw [if_pos h, if_pos (show s.releaseBreak.stc.station = .isolated from h)]
    rfl
  · rw [if_neg h, if_neg (show ¬s.releaseBreak.stc.station = .isolated from h)]

variable {s} {n : Nat}

/-- R152: the run's length and class past 9 T. -/
def longReached (s : State) : State :=
  s.setLif { s.lif with runClass := .long, runLength := max s.lif.runLength (Config.longHalves + 1) }

theorem passLong_of_attempting (h : s.lif.attempting = true) :
    s.passLong = s.longReached.exemptFrame.endAttempt.discardFrame.stopQuiet :=
  congrArg (fun t => State.stopQuiet (State.discardFrame t)) (if_pos h)

theorem passLong_of_not_attempting (h : s.lif.attempting = false) : s.passLong = s.longReached.discardFrame.stopQuiet :=
  congrArg (fun t => State.stopQuiet (State.discardFrame t)) (if_neg (by simp [h]))

theorem attempting_releaseBreak (hb : s.lif.drive = .brk n) : s.releaseBreak.lif.attempting = s.lif.attempting := by
  rw [Lif.attempting, Lif.attempting, hb]
  rfl

theorem passLong_releaseBreak (hb : s.lif.drive = .brk n) : s.releaseBreak.passLong = s.passLong.releaseBreak := by
  have hsame := attempting_releaseBreak hb
  have hlong : s.releaseBreak.longReached = s.longReached.releaseBreak := rfl
  have hcut : ∀ u : State, u.releaseBreak.exemptFrame.endAttempt = u.exemptFrame.endAttempt.releaseBreak := fun _ => rfl
  cases h : s.lif.attempting with
  | true =>
    rw [passLong_of_attempting h, passLong_of_attempting (hsame.trans h), hlong, hcut, discardFrame_releaseBreak,
      stopQuiet_releaseBreak]
  | false =>
    rw [passLong_of_not_attempting h, passLong_of_not_attempting (hsame.trans h), hlong, discardFrame_releaseBreak,
      stopQuiet_releaseBreak]

theorem stuckTrigger_releaseBreak (u : State) : u.releaseBreak.stuckTrigger = u.stuckTrigger.releaseBreak := by
  unfold State.stuckTrigger
  cases h : u.stc.station <;> simp only [show u.releaseBreak.stc = u.stc from rfl, h, enterIsolated_releaseBreak]

theorem passStuck_releaseBreak (hb : s.lif.drive = .brk n) : s.releaseBreak.passStuck = s.passStuck.releaseBreak := by
  have hreached : s.releaseBreak.stuckReached = s.stuckReached.releaseBreak := by
    unfold State.stuckReached
    dsimp only
    by_cases h : s.lif.runClass = .ordinary
    · rw [if_pos h, if_pos (show s.releaseBreak.lif.runClass = .ordinary from h), passLong_releaseBreak hb]
      rfl
    · rw [if_neg h, if_neg (show ¬s.releaseBreak.lif.runClass = .ordinary from h)]
      rfl
  rw [State.passStuck_eq, hreached, stuckTrigger_releaseBreak, State.passStuck_eq]

theorem tellLimits_releaseBreak (hb : s.lif.drive = .brk n) : s.releaseBreak.tellLimits = s.tellLimits.releaseBreak := by
  unfold State.tellLimits State.reachLimits
  rw [passStuck_releaseBreak hb, passLong_releaseBreak hb]
  simp only [show s.releaseBreak.lif.runLength = s.lif.runLength from rfl,
    show s.releaseBreak.lif.runClass = s.lif.runClass from rfl,
    show s.releaseBreak.lif.lineDominant = s.lif.lineDominant from rfl,
    show s.releaseBreak.receiving = s.receiving from rfl]
  split
  · split
    · split <;> rfl
    · split <;> rfl
  · rfl

/-- R147: the collision counted, before a duplicate identity is declared. -/
def counted (s : State) : State :=
  s.endAttempt.setLif { s.endAttempt.lif with collisions := bumpCollisions s.lif.collisions }

theorem collide_eq (s : State) : s.collide =
    if (bumpCollisions s.lif.collisions).val = Config.collisionLimit ∧ s.isMember = true then s.counted.enterBlocked
    else s.counted := rfl

theorem collide_releaseBreak : s.releaseBreak.collide = s.collide.releaseBreak := by
  have hcounted : s.releaseBreak.counted = s.counted.releaseBreak := rfl
  have hlif : s.releaseBreak.lif.collisions = s.lif.collisions := rfl
  have hmember : s.releaseBreak.isMember = s.isMember := rfl
  rw [collide_eq, collide_eq, hcounted, hlif, hmember]
  split
  · exact enterBlocked_releaseBreak _
  · rfl

theorem settleCollision_releaseBreak : s.releaseBreak.settleCollision = s.settleCollision.releaseBreak := by
  unfold State.settleCollision
  rw [collide_releaseBreak]
  simp only [show s.releaseBreak.lif.collisionDue = s.lif.collisionDue from rfl,
    show s.releaseBreak.receiving = s.receiving from rfl]
  split <;> rfl

theorem enterIsolated_brk (hb : s.lif.drive.stopFrame = .brk n) (d : Bool) : (s.enterIsolated d).lif.drive = .brk n := by
  rw [State.enterIsolated_lif]
  exact hb

/-- R153: what is told of a run leaves a break being driven. -/
theorem tellLimits_brk (hb : s.lif.drive = .brk n) : s.tellLimits.lif.drive = .brk n := by
  refine State.tellLimits_keeps (P := fun u => u.lif.drive = .brk n) hb (fun u hu => ?_) fun u hu => ?_
  · rw [State.passLong_drive, hu]
    rfl
  · have hstop : u.stuckReached.lif.drive.stopFrame = .brk n := by
      rw [State.stuckReached_stopFrame, hu]
      rfl
    have hdrive : u.stuckReached.lif.drive = .brk n := by
      unfold State.stuckReached
      dsimp only
      split
      · simp [State.passLong_drive, hu, Drive.isFrame]
      · exact hu
    rw [State.passStuck_eq]
    by_cases h : u.stuckReached.stc.station = .listen ∨ u.stuckReached.stc.station = .member
    · rw [State.stuckTrigger_of_listening h]
      exact enterIsolated_brk hstop _
    · rw [State.stuckTrigger_of_deaf (fun e => h (.inl e)) fun e => h (.inr e)]
      exact hdrive

/-- R153: a collision leaves a break being driven. -/
theorem settleCollision_brk (hb : s.lif.drive = .brk n) : s.settleCollision.lif.drive = .brk n := by
  unfold State.settleCollision
  split
  · rw [State.collide_lif, hb]
    rfl
  · exact hb

theorem settleLine_releaseBreak (hb : s.lif.drive = .brk n) (hn : 64 ≤ n) : s.releaseBreak.settleLine = s.settleLine := by
  set u := s.tellLimits.settleCollision with hu
  have hdrive : u.lif.drive = .brk n := settleCollision_brk (tellLimits_brk hb)
  have hdue : u.lif.breakDue = true := (Lif.breakDue_iff _).2 ⟨n, hdrive, hn⟩
  have hleft : s.releaseBreak.tellLimits.settleCollision = u.releaseBreak := by
    rw [tellLimits_releaseBreak hb, settleCollision_releaseBreak]
  rw [State.settleLine, hleft, State.settleLine, ← hu, State.settleBreak_told (s := u.releaseBreak) nofun]
  exact (if_pos hdue).symm

end State

theorem exec_breakDriveEnd {n : Nat} (hb : s.lif.drive = .brk n) : exec .breakDriveEnd s = .next s.releaseBreak :=
  if_pos (by rw [hb]; rfl)

/-- The end of a break comes before a command that settles the line first. -/
theorem breakFirst_of_exec {c : Instr} {F : State → State} (hs : s.stc.station ≠ .start)
    (hexec : ∀ u : State, u.stc.station ≠ .start → u.lif.lineDominant = s.lif.lineDominant →
      exec c u = .next (F u.settleLine)) : BreakFirst c s := by
  rintro ⟨n, hb, hn⟩
  refine ⟨s.releaseBreak, exec_breakDriveEnd hb, ?_⟩
  rw [hexec s hs rfl, hexec s.releaseBreak hs rfl, State.settleLine_releaseBreak hb hn]

end Sys2Proof.Machine

/-!
The events of the coordination line (R95, R121, R144 to R155, R178): the statements about attempts, runs, breaks and
reception errors.
-/

namespace Sys2Proof.Machine

variable {s : State}

theorem Receive.errorsAfter_inFrame (r : Reception) (n : BitVec 16) :
    (Receive.inFrame r).errorsAfter n = if r.exempt = true ∨ n = 65535 then n else n + 1 := by
  cases h : r.exempt <;> simp [Receive.errorsAfter, h, countError_eq]

/-- Settles O24: what a run past 9 T makes of the line, the queue and the quiet timer. -/
theorem longRunCutsAndDiscards : Obligations.LongRunCutsAndDiscards := by
  intro s hs hd hc
  obtain ⟨idle, gap, hlif⟩ := s.passLong_lif
  have hcut : s.lif.drive.isFrame = true ∨ s.lif.mismatch = true ↔ s.lif.attempting = true := (Lif.attempting_iff _).symm
  have hnot : s.lif.drive.isFrame = false → s.lif.mismatch = false → s.lif.attempting = false := fun hf hm => by
    simp [Lif.attempting, hf, hm]
  refine ⟨s.passLong, exec_longRunStart hs hd hc, by rw [hlif], ?length, by rw [hlif]; exact hd, by rw [hlif], by rw [hlif],
    by rw [hlif], fun h => ?attempt, s.passLong_drive, s.passLong_mismatch, fun hf hm => ?queue, fun hf hm r hr => ?errors,
    fun hr => ?outside, s.passLong_stc, ?_, ?_, ?_, ?_, ?_, ?_⟩
  case length =>
    rw [hlif]
    exact Nat.lt_of_lt_of_le (by decide) (le_max_right _ _)
  case attempt =>
    rw [hlif, State.passLong_txq, if_pos (hcut.1 h), if_pos (hcut.1 h)]
    exact ⟨rfl, s.txq.fail_failed⟩
  case queue => rw [State.passLong_txq, if_neg (by simp [hnot hf hm])]
  case errors =>
    rw [hlif]
    refine (if_neg (by simp [hnot hf hm])).trans ?_
    rw [hr, Receive.errorsAfter_inFrame]
  case outside =>
    rw [hlif]
    show (if s.lif.attempting then s.lif.rxErrors else s.lif.receive.errorsAfter s.lif.rxErrors) = s.lif.rxErrors
    rw [hr]
    exact ite_self _
  all_goals simp

/-- Settles O9: the trigger of a stuck line in LISTEN and MEMBER is an entry to ISOLATED; elsewhere the run's length and
class change, with what a run past 9 T does that has not been told. -/
theorem stuckLineIsolates : Obligations.StuckLineIsolates := by
  intro s hs hd hc
  obtain ⟨hlen, hclass, hdom⟩ := s.stuckReached_run
  obtain ⟨t, hstc⟩ := s.stuckReached_stc
  have hstation : s.stuckReached.stc.station = s.stc.station := by rw [hstc]
  have hself : s.stuckReached.self = s.self := by simp [State.self, hstc]
  have hprofile : s.stuckReached.profile = s.profile := by simp [State.profile, hstc]
  refine ⟨s.passStuck, exec_stuckLine hs hd hc, ?_⟩
  rw [State.passStuck_eq]
  by_cases hlistening : s.stc.station = .listen ∨ s.stc.station = .member
  · have h : s.stuckReached.stuckTrigger = s.stuckReached.enterIsolated false :=
      State.stuckTrigger_of_listening (by rwa [hstation])
    have he := s.stuckReached.enterIsolated_entered false nofun
    obtain ⟨⟨hst, -⟩, hquiet, ⟨-, hmis, -⟩, hflight, ⟨q, hq, htxq⟩, hlog, hview, hheld, hkeep, hqru, hpending, hstraps, -⟩ := he
    have hlif := s.stuckReached.enterIsolated_lif false
    rw [h]
    refine ⟨by rw [hlif]; exact hlen, by rw [hlif]; exact hclass, by rw [hlif]; exact hdom.trans hd, fun _ => ?_, fun hdeaf => ?_,
      hqru.trans (by simp), hpending.trans (by simp), hstraps.trans (by rw [hstc])⟩
    · refine ⟨hst, by simpa [hclass] using hquiet, ?_, hmis, hflight, ⟨q, State.stuckReached_failed hq, ?_⟩, ?_, ?_, ?_, ?_⟩
      · rw [hlif, ← Drive.stopFrame_eq]
        exact s.stuckReached_stopFrame
      · simpa [hstc] using htxq
      · simpa [hself, hstc] using hlog
      · simpa using hview
      · simpa [hstc, hprofile] using hheld
      · simpa [hstc] using hkeep
    · rcases hdeaf with e | e <;> simp [e] at hlistening
  · have h : s.stuckReached.stuckTrigger = s.stuckReached :=
      State.stuckTrigger_of_deaf (fun e => hlistening (.inl (hstation ▸ e))) fun e => hlistening (.inr (hstation ▸ e))
    rw [h]
    exact ⟨hlen, hclass, hdom.trans hd, fun e => absurd e hlistening,
      fun _ => ⟨hstation, by simp, by simp, by simp⟩, by simp, by simp, by rw [hstc]⟩

/-! ### Lost arbitration, drive faults and reception errors (R145, R149, R150) -/

/-- Settles O21: a lost attempt fails, and a failure says what becomes of the entry. -/
theorem lostAttemptSettlesItsEntry : Obligations.LostAttemptSettlesItsEntry := by
  refine ⟨fun s hs => limitsFirst_of_exec (F := State.loseArbitration) hs fun _ _ _ => rfl, fun s k htold hframe hk => ?_⟩
  have hf := s.txq.fail_failed
  obtain ⟨hin, hrem⟩ := hf.ended (by simp [hk])
  have hexec : exec .lostArbitration s = .next s.endAttempt := by
    show Host.Outcome.next s.tellLimits.loseArbitration = _
    rw [State.tellLimits_told htold, State.loseArbitration, if_pos hframe]
  have htxq : s.txq.fail = ⟨s.txq.fail.entries, none, none⟩ := by rw [← hin, ← hrem]
  refine ⟨s.txq.fail.entries, ?_, hf.kept, fun h => hf.cancelled k hk h, ?_, ?_⟩
  · rw [hexec, ← htxq, State.endAttempt_eq, Lif.stopSending, Drive.stopFrame_eq, if_pos hframe]
  · rintro a rfl
    exact hf.action a hk
  · rintro g rfl hg
    exact (hf.fault g hk hg).trans rfl

/-- R149: a drive fault where something is driven and no limit is to be told. -/
theorem exec_driveFault (htold : LimitsTold s.lif) (hd : s.lif.drive ≠ .none) : exec .driveFault s =
    .next (if s.stopFaulty.lif.driveFaults.val = Config.driveFaultLimit then s.stopFaulty.driveTrigger else s.stopFaulty) := by
  show Host.Outcome.next s.tellLimits.failDrive = _
  rw [State.tellLimits_told htold, State.failDrive, if_neg hd]

theorem State.stopFaulty_of_frame (h : s.lif.drive.isFrame = true) : s.stopFaulty = { s with
    txq := s.txq.fail
    lif := { s.lif with
      receive := s.lif.receive.exempted, drive := .none, mismatch := false
      driveFaults := bumpDriveFaults s.lif.driveFaults } } := by
  have hstop : s.lif.drive.stopFrame = .none := by rw [Drive.stopFrame_eq, if_pos h]
  unfold State.stopFaulty
  rw [if_pos h, ← hstop]
  rfl

theorem State.stopFaulty_of_break (h : s.lif.drive.isFrame = false) : s.stopFaulty = { s with
    lif := { s.lif with drive := .none, driveFaults := bumpDriveFaults s.lif.driveFaults } } := by
  unfold State.stopFaulty
  rw [if_neg (by simp [h])]
  rfl

theorem State.stopFaulty_driveFaults (s : State) :
    s.stopFaulty.lif.driveFaults = bumpDriveFaults s.lif.driveFaults := by
  cases h : s.lif.drive.isFrame with
  | true => rw [State.stopFaulty_of_frame h]
  | false => rw [State.stopFaulty_of_break h]

/-- R149, R150, R161: what a drive fault does to the receiver, to a mismatch and to the queue. -/
theorem State.stopFaulty_ended (s : State) :
    (s.lif.drive.isFrame = false → s.stopFaulty.lif.receive = s.lif.receive ∧
      s.stopFaulty.lif.mismatch = s.lif.mismatch ∧ s.stopFaulty.txq = s.txq) ∧
    (s.lif.drive.isFrame = true → s.stopFaulty.lif.receive = s.lif.receive.exempted ∧
      s.stopFaulty.lif.mismatch = false ∧ AttemptFailed s.txq s.stopFaulty.txq) := by
  refine ⟨fun h => ?_, fun h => ?_⟩
  · rw [State.stopFaulty_of_break h]
    exact ⟨rfl, rfl, rfl⟩
  · rw [State.stopFaulty_of_frame h]
    exact ⟨rfl, rfl, s.txq.fail_failed⟩

theorem State.stopFaulty_eq (s : State) : s.stopFaulty = { s with
    lif := { s.lif with
      drive := .none, mismatch := s.stopFaulty.lif.mismatch, driveFaults := s.stopFaulty.lif.driveFaults
      receive := s.stopFaulty.lif.receive }
    txq := s.stopFaulty.txq } := by
  cases h : s.lif.drive.isFrame with
  | true => rw [State.stopFaulty_of_frame h]
  | false => rw [State.stopFaulty_of_break h]

/-- R120: an entry to ISOLATED at a third drive fault, seen from before the fault. -/
theorem State.stopFaulty_isolated (s : State) : EnteredIsolated s (s.stopFaulty.enterIsolated true) true := by
  obtain ⟨hbreak, hframe⟩ := s.stopFaulty_ended
  have hclass : s.stopFaulty.lif.runClass = s.lif.runClass := by rw [s.stopFaulty_eq]
  have hfailed : ∀ q, AttemptFailed s.stopFaulty.txq q → AttemptFailed s.txq q := by
    intro q hq
    cases h : s.lif.drive.isFrame with
    | true =>
      rw [State.stopFaulty_of_frame h] at hq
      exact hq.of_twice
    | false => rwa [(hbreak h).2.2] at hq
  obtain ⟨hst, hquiet, ⟨hdrive, hline⟩, hflight, ⟨q, hq, htxq⟩, hlog, hview, hheld, hkeep, hqru, hpending, hstraps, huptime⟩ :=
    s.stopFaulty.enterIsolated_entered true fun _ => s.stopFaulty_drive
  refine ⟨hst, ?_, ⟨hdrive, hline⟩, hflight, ⟨q, hfailed q hq, ?_⟩, ?_, ?_, ?_, ?_, ?_⟩
  · simpa [hclass, State.profile] using hquiet
  · simpa using htxq
  · simpa [State.self] using hlog
  · simpa using hview
  · simpa [State.profile] using hheld
  · simpa using hkeep
  · exact ⟨hqru.trans (by simp), hpending.trans (by simp), hstraps.trans (by simp), huptime.trans (by simp)⟩

/-- Settles O22: the count below 3, then the third fault by station state. -/
theorem driveFaultsAreCountedToThree : Obligations.DriveFaultsAreCountedToThree := by
  refine ⟨fun s hs => limitsFirst_of_exec (F := State.failDrive) hs fun _ _ _ => rfl,
    fun s htold => ⟨fun hd => ?none, fun hd hlt => ?below, fun hd htwo hst => ?isolates, fun hd htwo hst => ?blocked⟩⟩
  case none =>
    show Host.Outcome.next s.tellLimits.failDrive = _
    rw [State.tellLimits_told htold, State.failDrive, if_pos hd]
  all_goals
    obtain ⟨hbreak, hframe⟩ := s.stopFaulty_ended
    have hbump := s.stopFaulty_driveFaults
    have heq := s.stopFaulty_eq
  case below =>
    have hval : s.stopFaulty.lif.driveFaults.val = s.lif.driveFaults.val + 1 := by
      rw [hbump, bumpDriveFaults, dif_pos (by omega)]
    refine ⟨s.stopFaulty, ?_, by rw [heq], by rw [heq], hval, hbreak, fun h => (hframe h).2, fun h hr => ?_, fun r h hr => ?_⟩
    · rw [exec_driveFault htold hd, if_neg (by rw [hval]; simp only [Config.driveFaultLimit]; omega)]
    · rw [(hframe h).1, hr]
      rfl
    · rw [(hframe h).1, hr]
      rfl
  case isolates =>
    have hlimit : s.stopFaulty.lif.driveFaults.val = Config.driveFaultLimit := by rw [hbump, htwo]; rfl
    have htrigger : s.stopFaulty.driveTrigger = s.stopFaulty.enterIsolated true := by
      unfold State.driveTrigger
      rcases hst with e | e <;> simp [e]
    refine ⟨s.stopFaulty.enterIsolated true, by rw [exec_driveFault htold hd, if_pos hlimit, htrigger], ?_⟩
    exact s.stopFaulty_isolated
  case blocked =>
    have hlimit : s.stopFaulty.lif.driveFaults.val = Config.driveFaultLimit := by rw [hbump, htwo]; rfl
    have htrigger : s.stopFaulty.driveTrigger = s.stopFaulty.setLif { s.stopFaulty.lif with driveFaults := 0 } := by
      unfold State.driveTrigger
      simp [hst]
    refine ⟨s.stopFaulty.setLif { s.stopFaulty.lif with driveFaults := 0 }, ?_, s.stopFaulty_drive, rfl,
      s.stopFaulty_stc, s.stopFaulty_clg, fun h => (hframe h).2, fun h => (hbreak h).2, s.stopFaulty_dvu, s.stopFaulty_bsu,
      s.stopFaulty_qru, s.stopFaulty_lpt⟩
    rw [exec_driveFault htold hd, if_pos hlimit, htrigger]

/-- R150: a reception fault where no limit is to be told. -/
theorem exec_receptionFault {c : Instr} (hc : c = .truncation ∨ ∃ k, c = .receptionError k) :
    exec c s = .next s.receptionFault := by
  rcases hc with rfl | ⟨k, rfl⟩ <;> rfl

/-- Settles O26: `State.discardReceived` by what is driven and what is received. -/
theorem receptionErrorsDiscardTheFrame : Obligations.ReceptionErrorsDiscardTheFrame := by
  intro s c hc
  refine ⟨fun hst => ?start, fun hs => limitsFirst_of_exec (F := State.discardReceived) hs fun _ _ _ => exec_receptionFault hc,
    fun htold hkeep => ?keeps, fun r hs htold hnone hr => ?discards⟩
  all_goals rw [exec_receptionFault hc, State.receptionFault]
  case start =>
    have hr : s.receiving = false := by simp [State.receiving, hst]
    simp [State.tellLimits, State.discardReceived, hr]
  case keeps =>
    rw [State.tellLimits_told htold, State.discardReceived]
    rcases hkeep with ⟨f, n, hf⟩ | hout
    · rw [if_neg (by simp [hf, Drive.isFrame])]
    · rw [State.discardFrame_of_outside hout, ite_self]
  case discards =>
    have hframe : s.lif.drive.isFrame = false := by
      cases h : s.lif.drive with
      | frame f n => exact absurd h (hnone f n)
      | _ => rfl
    rw [State.tellLimits_told htold, State.discardReceived, if_pos (by simp [(State.receiving_iff s).2 hs, hframe]),
      State.discardFrame_of_inFrame hr]
    have herrors := Receive.errorsAfter_inFrame r s.lif.rxErrors
    rw [← herrors]
    rfl

end Sys2Proof.Machine

/-!
The emergency (R95, R153), what an append makes of the log (R178, R179, R182), and the beginning and the end of a dominant
run (R141, R147, R152 to R155, R67).
-/

namespace Sys2Proof.Machine

variable {s : State}

/-! ### The emergency (R95) -/

theorem exec_emrgNFall (hs : s.stc.station ≠ .start) : exec .emrgNFall s = .next s.settleLine.emergency :=
  if_pos (by simpa [State.observing] using hs)

theorem exec_emrgNFall_told (hs : s.stc.station ≠ .start) (hl : LimitsTold s.lif) (hc : CollisionTold s.lif)
    (hb : BreakTold s.lif) : exec .emrgNFall s = .next s.emergency := by
  rw [exec_emrgNFall hs, State.settleLine_told hl hc hb]

/-- R145, R152: no run is in progress on a recessive line. -/
theorem LimitsTold.of_recessive {l : Lif} (h : l.lineDominant = false) : LimitsTold l :=
  fun hd => absurd (h.symm.trans hd) (by simp)

theorem BreakTold.of_not_break {l : Lif} (h : ∀ n, l.drive ≠ .brk n) : BreakTold l :=
  fun n hn => absurd hn (h n)

theorem Drive.isBreak_eq_false {d : Drive} (h : ∀ n, d ≠ .brk n) : d.isBreak = false := by
  cases d with
  | brk n => exact absurd rfl (h n)
  | _ => rfl

theorem State.emergency_of_isolated (hb : ∀ n, s.lif.drive ≠ .brk n) (hst : s.stc.station = .isolated) :
    s.emergency = s.recordEmergency := by
  unfold State.emergency
  rw [if_neg (by simp [Drive.isBreak_eq_false hb])]
  simp only [hst]

theorem State.emergency_of_breaking (hb : ∀ n, s.lif.drive ≠ .brk n) (hs : s.stc.station ≠ .start)
    (hi : s.stc.station ≠ .isolated) : s.emergency = s.recordEmergency.startBreak := by
  unfold State.emergency
  rw [if_neg (by simp [Drive.isBreak_eq_false hb])]
  cases h : s.stc.station with
  | start => exact absurd h hs
  | isolated => exact absurd h hi
  | _ => rfl

theorem State.recordEmergency_clg (s : State) : s.recordEmergency.clg =
    s.clg.appended (recordOf .emrg none (some s.self) s.dvu.epoch none s.stc.uptime false) :=
  State.append_clg ..

theorem State.recordEmergency_view (s : State) : OnlyOwnFollows s s.recordEmergency ∧
    SameDomain s.dvu s.recordEmergency.dvu ∧ SameTimers s.dvu s.recordEmergency.dvu := by
  refine ⟨s.append_follows .., ?_, ?_⟩
  · constructor <;> simp [State.recordEmergency]
  · constructor <;> simp [State.recordEmergency]

/-- R153, R150, R161, R147: what the beginning of a break does to an attempt, to a mismatch and to the receiver. -/
theorem State.startBreak_begun (s : State) : s.startBreak.lif.drive = .brk 0 ∧
    (s.lif.drive.isFrame = true → s.startBreak.lif.mismatch = false ∧ AttemptFailed s.txq s.startBreak.txq) ∧
    (s.lif.drive.isFrame = false → s.startBreak.lif.mismatch = s.lif.mismatch ∧ s.startBreak.txq = s.txq ∧
      s.startBreak.lif.receive = s.lif.receive) ∧
    s.startBreak.lif.lineDominant = s.lif.lineDominant ∧ s.startBreak.lif.runLength = s.lif.runLength ∧
    s.startBreak.lif.idle = s.lif.idle ∧ s.startBreak.lif.collisions = s.lif.collisions ∧
    s.startBreak.lif.driveFaults = s.lif.driveFaults ∧ s.startBreak.lif.rxErrors = s.lif.rxErrors := by
  unfold State.startBreak
  cases h : s.lif.drive.isFrame with
  | true => exact ⟨rfl, fun _ => ⟨rfl, s.txq.fail_failed⟩, nofun, rfl, rfl, rfl, rfl, rfl, rfl⟩
  | false => exact ⟨rfl, nofun, fun _ => ⟨rfl, rfl, rfl⟩, rfl, rfl, rfl, rfl, rfl, rfl⟩

/-- Settles O19: the emergency by station state, once what has come about on the line has taken effect. -/
theorem emergencyIsRecordedAndBroken : Obligations.EmergencyIsRecordedAndBroken := by
  refine fun s => ⟨fun hst => ?start, fun hs => ⟨?limits, ?collision, ?breakEnd⟩, fun hs hl hc hb => ?ignored,
    fun hs hl hc hb => ?taken, fun n hn => exec_breakDriveEnd hn⟩
  case start => exact if_neg (by simp [State.observing, hst])
  case limits =>
    exact limitsFirst_of_exec (F := fun t => t.settleCollision.settleBreak.emergency) hs fun u hu _ => exec_emrgNFall hu
  case collision =>
    refine collisionFirst_of_exec (F := fun t => t.settleBreak.emergency) hs fun u hu hd => ?_
    rw [exec_emrgNFall hu, State.settleLine, State.tellLimits_told (.of_recessive hd)]
  case breakEnd => exact breakFirst_of_exec (F := State.emergency) hs fun u hu _ => exec_emrgNFall hu
  case ignored =>
    obtain ⟨n, hn, hlt⟩ := hb
    have htold : BreakTold s.lif := fun m hm => by
      rw [hn] at hm
      cases hm
      exact hlt
    rw [exec_emrgNFall_told hs hl hc htold, State.emergency, if_pos (by rw [hn]; rfl)]
  case taken =>
    obtain ⟨hfollows, hdomain, htimers⟩ := s.recordEmergency_view
    have hexec := exec_emrgNFall_told hs hl hc (.of_not_break hb)
    by_cases hi : s.stc.station = .isolated
    · rw [State.emergency_of_isolated hb hi] at hexec
      exact ⟨_, hexec, s.recordEmergency_clg, fun _ => ⟨by simp, by simp⟩, fun h => absurd hi h, hfollows, hdomain, htimers,
        by simp, by simp, by simp, by simp⟩
    · rw [State.emergency_of_breaking hb hs hi] at hexec
      have hbegun := s.recordEmergency.startBreak_begun
      simp only [State.recordEmergency_lif, State.recordEmergency_txq] at hbegun
      refine ⟨_, hexec, ?_, fun h => absurd h hi, fun _ => hbegun, hfollows.then_same ?_ ?_ ?_, ?_, ?_, ?_, ?_, ?_, ?_⟩
      · rw [State.startBreak_clg, State.recordEmergency_clg]
      · simp
      · simp
      · simp
      · simpa using hdomain
      · simpa using htimers
      all_goals simp

/-! ### An append (R178, R179, R182) -/

/-- Settles O49: the log of an emergency in ISOLATED, below its capacity and full. -/
theorem appendsNumberRecordsAndMarkLosses : Obligations.AppendsNumberRecordsAndMarkLosses := by
  intro s hst hl hc hb
  have hexec := exec_emrgNFall_told (by simp [hst]) hl hc (.of_not_break hb)
  rw [State.emergency_of_isolated hb hst] at hexec
  refine ⟨_, hexec, by rw [State.recordEmergency_clg]; rfl, _, rfl, fun hroom => ?room, fun oldest second rest hlog hlen => ?full,
    by simp, by simp, by simp, ?view, by simp, by simp, by simp⟩
  case room =>
    rw [State.recordEmergency_clg, Clg.appended, if_pos (show s.clg.records.length < Config.logCapacity from hroom)]
    rfl
  case full =>
    have hnot : ¬s.clg.records.length < Config.logCapacity := by
      rw [hlog, List.length_cons, List.length_cons, hlen]
      decide
    rw [State.recordEmergency_clg, Clg.appended, if_neg hnot, hlog]
    rfl
  case view => exact State.append_dvu_off (by simp [hst]) ..

end Sys2Proof.Machine

/-!
The beginning and the end of a dominant run (R141, R143, R147, R152 to R155) and the rewind of a line break (R67).
-/

namespace Sys2Proof.Machine

variable {s : State}

/-! ### The beginning of a run -/

theorem exec_dominantRunStart (hs : s.stc.station ≠ .start) (hd : s.lif.lineDominant = false) :
    exec .dominantRunStart s = .next s.settleLine.beginRun :=
  if_pos ⟨(State.receiving_iff s).2 hs, hd⟩

theorem Lif.opensFrame_iff (l : Lif) :
    l.opensFrame = true ↔ l.receive = .outside ∧ 23 ≤ l.idle ∧ l.drive.isBreak = false := by
  rw [Lif.opensFrame, Bool.and_eq_true, Bool.and_eq_true, beq_iff_eq, decide_eq_true_iff, Bool.not_eq_true', and_assoc]
  rfl

/-- R141: the receiver after a falling edge, from outside any frame. -/
theorem Lif.receiveAtEdge_of_outside {l : Lif} (hr : l.receive = .outside) : l.receiveAtEdge =
    if 23 ≤ l.idle ∧ l.drive.isBreak = false then .inFrame Reception.opened else .outside := by
  unfold Lif.receiveAtEdge
  rw [hr]
  exact if_congr (by simp [Lif.opensFrame_iff, hr]) rfl rfl

/-- R141: the receiver after a falling edge within a frame. -/
theorem Lif.receiveAtEdge_of_inFrame {l : Lif} {r : Reception} (hr : l.receive = .inFrame r) :
    l.receiveAtEdge = .inFrame r.nextEdge := by
  unfold Lif.receiveAtEdge
  rw [hr]

theorem Reception.nextEdge_of_none {r : Reception} (h : r.phase = none) : r.nextEdge = { r with phase := some 0 } := by
  unfold Reception.nextEdge
  rw [h]

theorem Reception.nextEdge_of_some {r : Reception} (h : r.phase ≠ none) : r.nextEdge = r := by
  unfold Reception.nextEdge
  cases hp : r.phase with
  | none => exact absurd hp h
  | some p => rfl

/-! ### The end of a run -/

theorem exec_dominantRunEnd (hs : s.stc.station ≠ .start) (hd : s.lif.lineDominant = true) :
    exec .dominantRunEnd s = .next s.tellLimits.classifyRun := by
  have hr := (State.receiving_iff s).2 hs
  have htell : s.tellLimits = s.reachLimits := if_pos (by simp [hr, hd])
  rw [htell]
  exact if_pos ⟨hr, hd⟩

/-- R147: the end of a run of 9 T or less reports a mismatch as a collision. -/
theorem State.classifyRun_of_mismatch (hs : s.stc.station ≠ .start) (hl : s.lif.runLength ≤ 18)
    (hm : s.lif.mismatch = true) : s.classifyRun = s.endRun.collide := by
  unfold State.classifyRun
  rw [if_pos (show s.lif.runLength ≤ Config.longHalves from hl)]
  exact State.settleCollision_due (s := s.endRun) hs rfl hm

/-- R121: the quiet timer at the end of a run, by the run's length. -/
theorem State.restartQuiet_eq (s : State) : s.restartQuiet = s.setStc { s.stc with
    quiet := if s.stc.station = .isolated then .running (quietInterval s.profile) else s.stc.quiet } := by
  unfold State.restartQuiet
  split <;> rfl

/-- R154: the listen-in at the end of a line break, outside MEMBER. -/
theorem State.breakEnd_eq (hm : s.stc.station ≠ .member) : s.breakEnd = s.setStc { s.stc with
    listenIn := if s.stc.station = .listen then .running (listenInterval s.profile) else s.stc.listenIn } := by
  unfold State.breakEnd
  cases h : s.stc.station with
  | member => exact absurd h hm
  | _ => rfl

/-- R152, R154, R121: what the end of a run does where it is no collision and rewinds nothing. -/
theorem State.classifyRun_quietly
    (hm : s.stc.station ≠ .member ∨ s.lif.runLength < 48 ∨ 8192 ≤ s.lif.runLength)
    (hmis : s.lif.runLength ≤ 18 → s.lif.mismatch = false) : s.classifyRun = s.endRun.setStc { s.stc with
      quiet := if s.stc.station = .isolated ∧ 18 < s.lif.runLength then .running (announcePeriod s.profile)
        else s.stc.quiet
      listenIn := if s.stc.station = .listen ∧ 48 ≤ s.lif.runLength ∧ s.lif.runLength < 8192 then
        .running (3 * announcePeriod s.profile) else s.stc.listenIn } := by
  have hlisten : s.endRun.restartQuiet.stc.station = s.stc.station := State.restartQuiet_station _
  unfold State.classifyRun
  split
  · next hle =>
    have htold : CollisionTold s.endRun.lif := fun _ => hmis hle
    simp only [Config.longHalves] at hle
    rw [State.settleCollision_told htold, if_neg (by omega), if_neg (by omega)]
    rfl
  · next hgt =>
    simp only [Config.longHalves] at hgt
    split
    · next hlt =>
      simp only [Config.breakHalves] at hlt
      rw [if_neg (c := s.stc.station = .listen ∧ 48 ≤ s.lif.runLength ∧ s.lif.runLength < 8192) (by omega),
        State.restartQuiet_eq]
      simp only [show (18 < s.lif.runLength) = True from eq_true (by omega), and_true]
      rfl
    · next hge =>
      simp only [Config.breakHalves] at hge
      have hlong : (18 < s.lif.runLength) = True := eq_true (by omega)
      have hbreak : (48 ≤ s.lif.runLength) = True := eq_true (by omega)
      split
      · next hlt =>
        simp only [Config.stuckHalves] at hlt
        rw [State.breakEnd_eq (by rw [hlisten]; exact hm.resolve_right (by omega)), State.restartQuiet_eq]
        simp only [hlong, hbreak, eq_true hlt, and_true]
        rfl
      · next hnlt =>
        simp only [Config.stuckHalves] at hnlt
        rw [if_neg (c := s.stc.station = .listen ∧ 48 ≤ s.lif.runLength ∧ s.lif.runLength < 8192) (by omega),
          State.restartQuiet_eq]
        simp only [hlong, and_true]
        rfl

/-- Settles O23: the beginning of a run by what is received, its end by its length. -/
theorem runsBeginAndAreClassified : Obligations.RunsBeginAndAreClassified := by
  refine ⟨fun s hs hd => ⟨fun hc hb => ?begins, ?collision, ?breakEnd⟩,
    fun s hs hd => ⟨?limits, fun hlen hm => ?mismatch, fun hq htold hm => ?classified⟩⟩
  case begins =>
    refine ⟨s.beginRun.lif, ?_, rfl, rfl, rfl, rfl, rfl, hc hd, rfl, rfl, rfl, fun hr hb hidle => ?_, fun hr hnot => ?_,
      fun r hr hp => ?_, fun r hr hp => ?_, rfl, s.edgeJoins_iff⟩
    · rw [exec_dominantRunStart hs hd, State.settleLine_told (.of_recessive hd) hc hb]
      rfl
    · exact (Lif.receiveAtEdge_of_outside hr).trans (if_pos ⟨hidle, hb⟩)
    · refine (Lif.receiveAtEdge_of_outside hr).trans (if_neg ?_)
      rintro ⟨hidle, hb⟩
      rcases hnot with h | h
      · simp [h] at hb
      · omega
    · exact (Lif.receiveAtEdge_of_inFrame hr).trans (by rw [Reception.nextEdge_of_none hp])
    · exact (Lif.receiveAtEdge_of_inFrame hr).trans (by rw [Reception.nextEdge_of_some hp])
  case collision =>
    refine collisionFirst_of_exec (F := fun t => t.settleBreak.beginRun) hs fun u hu hr => ?_
    rw [exec_dominantRunStart hu hr, State.settleLine, State.tellLimits_told (.of_recessive hr)]
  case breakEnd =>
    exact breakFirst_of_exec (F := State.beginRun) hs fun u hu hr => exec_dominantRunStart hu (hr.trans hd)
  case limits =>
    exact limitsFirst_of_exec (F := State.classifyRun) hs fun u hu hr => exec_dominantRunEnd hu (hr.trans hd)
  case mismatch =>
    have htold : LimitsTold s.lif := fun _ => ⟨fun h => by omega, fun h => by omega⟩
    rw [exec_dominantRunEnd hs hd, State.tellLimits_told htold, State.classifyRun_of_mismatch hs hlen hm]
    exact (exec_collisionAfterArbitration (s := s.endRun)
      ((Lif.attempting_iff _).2 (.inr hm)) rfl (Nat.zero_le _)).symm
  case classified =>
    rw [exec_dominantRunEnd hs hd, State.tellLimits_told htold, State.classifyRun_quietly hq hm]
    rfl

/-! ### The rewind of a line break (R67) -/

/-- R55 to R58: the state of a rewind before its record and the evaluation of the advance condition. -/
def State.rewound (s : State) (b : Rank) (c : Cause) : State :=
  ((s.setDvu (s.dvu.rewind b (c == .start) s.self s.profile)).boardRewind b).purge b

theorem State.rewound_frame (s : State) (b : Rank) (c : Cause) :
    (s.rewound b c).stc = s.stc ∧ (s.rewound b c).clg = s.clg ∧ (s.rewound b c).lpt = s.lpt ∧
      (s.rewound b c).qru = s.qru ∧ (s.rewound b c).dvu.epoch = epochSucc s.dvu.epoch := by
  refine ⟨?_, ?_, ?_, ?_, ?_⟩
  case refine_5 =>
    simp only [State.rewound, State.purge_dvu, State.boardRewind_dvu_epoch, State.setDvu_dvu]
    rfl
  all_goals simp [State.rewound]

theorem State.rewound_length (s : State) (b : Rank) (c : Cause) :
    (s.rewound b c).txq.entries.length ≤ s.txq.entries.length := by
  have hpurge : (s.rewound b c).txq.entries.length ≤
      ((s.setDvu (s.dvu.rewind b (c == .start) s.self s.profile)).boardRewind b).txq.entries.length :=
    List.length_filter_le _ _
  refine hpurge.trans ?_
  rcases State.boardRewind_queue (s.setDvu (s.dvu.rewind b (c == .start) s.self s.profile)) b with h | h <;> rw [h]
  · exact le_rfl
  · rw [State.setDvu_txq, Txq.cancel]
    split
    · exact le_rfl
    · exact List.length_filter_le _ _

theorem State.rewind_none (s : State) (b : Rank) (c : Cause) : s.rewind b c none = (s.rewound b c).evalAdvance := rfl

theorem State.rewind_some (s : State) (b : Rank) (c : Cause) (sc : Option Scope) (o : Option StationId) :
    s.rewind b c (some (sc, o)) = ((s.rewound b c).append c sc o (some b)).evalAdvance := rfl

/-- R59: the record of a rewind carries the epoch after it. -/
theorem State.rewind_some_clg (s : State) (b : Rank) (c : Cause) (sc : Option Scope) (o : Option StationId) :
    (s.rewind b c (some (sc, o))).clg =
      s.clg.appended (recordOf c sc o (epochSucc s.dvu.epoch) (some b) s.stc.uptime false) := by
  obtain ⟨hstc, hclg, -, -, hepoch⟩ := s.rewound_frame b c
  rw [State.rewind_some, State.evalAdvance_clg, State.append_clg, hclg, hepoch, hstc]

/-- R59: the sender of the FAULT appends nothing. -/
theorem State.rewind_none_clg (s : State) (b : Rank) (c : Cause) : (s.rewind b c none).clg = s.clg := by
  obtain ⟨-, hclg, -⟩ := s.rewound_frame b c
  rw [State.rewind_none, State.evalAdvance_clg, hclg]

/-- R165: with room for an ADVANCE, a rewind drops no query. -/
theorem State.rewind_qru_room (h : s.txq.entries.length < 12) (b : Rank) (c : Cause)
    (r : Option (Option Scope × Option StationId)) : (s.rewind b c r).qru = s.qru := by
  obtain ⟨-, -, -, hqru, -⟩ := s.rewound_frame b c
  have hroom := Nat.lt_of_le_of_lt (s.rewound_length b c) h
  cases r with
  | none => rw [State.rewind_none, State.evalAdvance_qru_room hroom, hqru]
  | some p =>
    rw [State.rewind_some, State.evalAdvance_qru_room (by rwa [State.append_txq]), State.append_qru, hqru]

/-- A rewind does not read the line. -/
theorem Rewound.of_setLif {t : State} {l : Lif} {b : Rank} {g : Bool} (h : Rewound (s.setLif l) t b g) : Rewound s t b g :=
  ⟨h.epoch, h.base, h.front, h.gather, h.holdSet, h.timers, h.covered, h.below, h.absent, h.own, h.covers, h.spared, h.station⟩

theorem QueuePurged.of_setLif {t : State} {l : Lif} {b : Rank} (h : QueuePurged (s.setLif l) t b) : QueuePurged s t b :=
  ⟨h.advance, h.lapse, h.ready, h.fault, h.kept, h.nothing⟩

/-- Settles O25: the end of a line break in MEMBER is a rewind to rank 0 on the line that the run has left. -/
theorem lineBreakRewindsAMember : Obligations.LineBreakRewindsAMember := by
  intro s hst hview hflight hd hlong hlt hclass
  have htold : LimitsTold s.lif := fun _ => ⟨fun _ => hclass, fun h => by omega⟩
  have hexec : exec .dominantRunEnd s = .next s.endRun.breakRewind := by
    rw [exec_dominantRunEnd (by simp [hst]) hd, State.tellLimits_told htold, State.classifyRun,
      if_neg (by simp only [Config.longHalves]; omega), if_neg (by simp only [Config.breakHalves]; omega),
      if_pos (by simp only [Config.stuckHalves]; omega)]
    have hquiet : s.endRun.restartQuiet = s.endRun := if_neg (by simp [State.endRun, hst])
    rw [hquiet]
    unfold State.breakEnd
    simp [State.endRun, hst]
  have hv : ViewSound s.endRun := hview.of_same_dvu rfl rfl rfl rfl rfl rfl
  have hrewound : Rewound s.endRun s.endRun.breakRewind 0 false := State.rewind_rewound hv hst 0 .emrg nofun _
  have hpurged : QueuePurged s.endRun s.endRun.breakRewind 0 := State.rewind_purged (s := s.endRun) hflight 0 .emrg _
  have hlog : s.endRun.breakRewind.clg = s.clg.appended
      (recordOf .emrg (some .domain) none (epochSucc s.dvu.epoch) (some 0) s.stc.uptime false) :=
    s.endRun.rewind_some_clg ..
  refine ⟨_, hexec, hrewound.of_setLif, hpurged.of_setLif, fun h => ?_, hlog, ?_, ?_⟩
  · exact State.rewind_qru_room (s := s.endRun) h _ _ _
  · simp [State.breakRewind, State.endRun, Lif.restartIdle]
  · simp [State.breakRewind, State.endRun]

end Sys2Proof.Machine

/-!
The board's timers and inputs (R72, R74, R75, R79 to R87): the statements about expiries, edges and local faults.
-/

namespace Sys2Proof.Machine

variable {s : State}

/-! ### The hold-down and the recovery interval (R72, R87) -/

theorem State.setBsu_releaseSettled (s : State) (b : Bsu) :
    ReleaseSettled s b ((s.setBsu b).evalRelease.settleTerms s.dvu) := by
  have h := (s.setBsu_changed b).releaseSettled s.dvu
  rwa [State.setBsu_bsu] at h

theorem State.putBsu_releaseSettled (s : State) (b : Bsu) :
    ReleaseSettled s b ((s.putBsu b).evalRelease.settleTerms s.dvu) :=
  (s.putBsu_changed b).releaseSettled s.dvu

/-- Settles O14: both expiries change the board and evaluate the release. -/
theorem holdDownAndRecoveryEndInARelease : Obligations.HoldDownAndRecoveryEndInARelease := by
  refine ⟨fun s hrunning => ?_, fun s hb hrunning => ?_⟩
  · obtain ⟨hboard, hdomain, htimers, hothers, hroom, hrest⟩ :=
      s.setBsu_releaseSettled { s.bsu with holdDown := .expired }
    exact ⟨_, if_pos hrunning, hboard, hdomain, htimers, hothers, hroom, hrest⟩
  · obtain ⟨hboard, hdomain, htimers, hothers, hroom, hrest⟩ :=
      s.setBsu_releaseSettled { s.bsu with board := .held, recovery := .stopped }
    exact ⟨_, if_pos ⟨hb, hrunning⟩, hboard, hdomain, htimers, hothers, hroom, hrest⟩

/-! ### Local faults of a running board (R79, R80, R83) -/

theorem State.strapFault_detected {b : Bsu} (hr : boardRunning b.board = true) (hb : b.budget ≠ 3)
    (hq : s.txq.Sound) (c : Cause) :
    FaultDetected { s with bsu := b } ((s.putBsu b).strapFault c) c (contScope s.stc.straps.cont) :=
  State.localFault_detected (s := s.putBsu b) hr hb hq c _

theorem State.observing_iff (s : State) : s.observing = true ↔ s.stc.station ≠ .start := by
  simp [State.observing]

/-- Settles O15: each event is a local fault of the state it leaves of the latch and the band. -/
theorem runningBoardFaultsAreContained : Obligations.RunningBoardFaultsAreContained := by
  intro s hq hr hb
  refine ⟨fun harmed => ⟨_, if_pos harmed, ?_⟩, fun hs hlatch => ⟨_, if_pos ⟨s.observing_iff.2 hs, hlatch⟩, ?_⟩,
    fun hs hband => ⟨_, if_pos ⟨s.observing_iff.2 hs, hband⟩, ?_⟩⟩
  · exact State.localFault_detected hr hb hq .wdog _
  · exact State.strapFault_detected (s := s) (b := { s.bsu with fltLatch := .low }) hr hb hq .boardFlt
  · exact State.strapFault_detected (s := s) (b := { s.bsu with band := .low }) hr hb hq .supply

/-! ### The inputs of a board at rest (R80 to R83) -/

theorem State.strapFault_of_resting (h : boardRunning s.bsu.board = false) (c : Cause) : s.strapFault c = s :=
  if_neg (by simp [State.running, h])

/-- Settles O16: a fall detects no fault on a board that does not run; a rise evaluates the release. -/
theorem inputsMoveLatchAndBand : Obligations.InputsMoveLatchAndBand := by
  refine ⟨fun s hrest => ⟨fun hw => ?watchdog, fun hs hlatch => ?fltFall, fun hs hband => ?bandFall⟩,
    fun s hs => ⟨fun hlatch hmode => ?fltRise, fun hlatch hmode => ?fltRiseLevel, fun hband => ?bandRise⟩⟩
  case watchdog => exact if_neg (by simp [hw, Watchdog.isArmed])
  case fltFall =>
    refine (if_pos ⟨s.observing_iff.2 hs, hlatch⟩).trans ?_
    rw [State.strapFault_of_resting (s := s.putBsu { s.bsu with fltLatch := .low }) hrest]
    rfl
  case bandFall =>
    refine (if_pos ⟨s.observing_iff.2 hs, hband⟩).trans ?_
    rw [State.strapFault_of_resting (s := s.putBsu { s.bsu with band := .low }) hrest]
    rfl
  case fltRise =>
    refine (if_pos ⟨s.observing_iff.2 hs, hlatch⟩).trans ?_
    rw [if_neg (by simp [hmode])]
    rfl
  case fltRiseLevel =>
    obtain ⟨hboard, hdomain, htimers, hothers, hroom, hstc, hlif, hclg, hlpt, hpending⟩ :=
      s.putBsu_releaseSettled { s.bsu with fltLatch := .high }
    refine ⟨_, (if_pos ⟨s.observing_iff.2 hs, hlatch⟩).trans (by rw [if_pos hmode]), hboard, hclg, hroom, hlpt, hothers,
      hdomain, htimers, hstc, hlif, hpending⟩
  case bandRise =>
    obtain ⟨hboard, hdomain, htimers, hothers, hroom, hstc, hlif, hclg, hlpt, hpending⟩ :=
      s.putBsu_releaseSettled { s.bsu with band := .normal }
    exact ⟨_, if_pos ⟨s.observing_iff.2 hs, hband⟩, hboard, hclg, hroom, hlpt, hothers, hdomain, htimers, hstc, hlif, hpending⟩

/-! ### BRDY (R74, R75) -/

theorem Entry.eq_ready {e : Entry} (h : e.key = .ready) : ∃ r, e = .ready r := by
  cases e with
  | ready r => exact ⟨r, rfl⟩
  | _ => cases h

/-- R163: a cancelled READY waits no more; one in flight is remembered as cancelled. -/
theorem Txq.cancel_ready (q : Txq) : (q.inFlight ≠ some .ready → ∀ r, .ready r ∉ (q.cancel .ready).entries) ∧
    (q.inFlight = some .ready → (q.cancel .ready).remembered = some .cancellation) := by
  refine ⟨fun h r hm => ?_, fun h => ?_⟩
  · rw [Txq.cancel, if_neg h] at hm
    exact (mem_removeKey.1 hm).2 rfl
  · rw [Txq.cancel, if_pos h]

/-- With room for the READY and an ADVANCE, a READY asked for anew is pending and no slot is touched. -/
theorem State.request_ready_room {s : State} {r : Rank} {d : Dvu} (hfree : s.txq.holds .ready = false)
    (hlen : s.txq.entries.length ≤ 10) :
    .ready r ∈ ((s.request (.ready r)).settleTerms d).txq.entries ∧
      ((s.request (.ready r)).settleTerms d).qru = s.qru := by
  have hfresh : (s.request (.ready r)).txq.entries = s.txq.entries ++ [.ready r] := by
    rw [State.request_txq, Txq.request_fresh (.ready r) (by simp only [Config.queueCapacity]; omega) hfree]
  refine ⟨State.mem_settleTerms ?_ d (by rw [hfresh]; simp), State.request_settle_qru_room _ d hlen⟩
  rw [hfresh, List.length_append, List.length_singleton, Config.queueCapacity]
  omega

/-- Settles O17: a rise in RUNUP and a fall in READY, each by its change of the board and of the queue. -/
theorem brdyEdgesMoveTheBoard : Obligations.BrdyEdgesMoveTheBoard := by
  refine ⟨fun s => ⟨fun hb => ?rise, fun hb => if_neg hb⟩, fun s => ⟨fun hb => ?fall, fun hb => if_neg hb⟩⟩
  case rise =>
    set b : Bsu := { s.bsu with board := .ready, stable := .running (stableInterval s.profile) }
    have hown : OnlyOwnFollows s (((s.setBsu b).request (.ready s.rank)).settleTerms s.dvu) :=
      (s.setBsu_follows b).then_same (by simp) (by simp) (by simp)
    refine ⟨_, if_pos hb, by simp [b], fun hfree hlen => ?_, hown, ?_, ?_, by simp, by simp, by simp, by simp, by simp⟩
    · have h := State.request_ready_room (s := s.setBsu b) (r := s.rank) (d := s.dvu) (by simpa using hfree)
        (by simpa using hlen)
      simpa using h
    · constructor <;> simp
    · constructor <;> simp
  case fall =>
    set b : Bsu := { s.bsu with board := .runup, stable := .stopped } with hbdef
    set u := (s.setBsu b).cancel .ready with hu
    have htxq : u.txq = s.txq.cancel .ready := by simp [hu]
    have hown : OnlyOwnFollows s (u.settleTerms s.dvu) :=
      (s.setBsu_follows b).then_same (by simp [hu]) (by simp [hu]) (by simp [hu])
    obtain ⟨hgone, hkept⟩ := s.txq.cancel_ready
    refine ⟨_, if_pos hb, by simp [hbdef], fun hfree r hr => ?_, fun hflight => ?_, fun hm => ?_, fun hlen => ?_, hown, ?_, ?_,
      by simp, by simp, by simp, by simp, by simp⟩
    · exact hgone hfree r (htxq ▸ State.mem_of_mem_settleTerms s.dvu hr (by simp [Entry.key]))
    · have hq : u.txq.remembered = some .cancellation := htxq ▸ hkept hflight
      rcases u.settleTerms_txq_cases s.dvu with h | ⟨o, n, h⟩ <;> rw [h]
      · exact hq
      · rw [Txq.request_remembered (by simp [htxq, hflight, Entry.key]), hq]
    · rw [hown.own, if_pos hm]
      simp [hu, hbdef]
    · have hle : u.txq.entries.length ≤ s.txq.entries.length := by
        rw [htxq, Txq.cancel]
        split
        · exact le_rfl
        · exact List.length_filter_le _ _
      rw [State.settleTerms_qru_room s.dvu (lt_of_le_of_lt hle hlen)]
      simp [hu]
    · constructor <;> simp
    · constructor <;> simp

end Sys2Proof.Machine

/-!
The local port's reports (R139, R176, R186, R187): what a take leaves of the port, and the commands that change the port alone.
-/

namespace Sys2Proof.Machine

variable {s : State}

/-! ### A take (R138) -/

theorem State.take_answered (h : AwaitsCommand s) {c : Instr} (hc : takenCommand (portBytes c) = some c)
    {effect : State → State} (hscs : (effect s).lpt.scs = s.lpt.scs) (hobs : (effect s).lpt.observed = s.lpt.observed)
    (response : List Byte) (mark : Option Mark) :
    s.take c effect response mark = { effect s with lpt := .answered (portBytes c) response mark } := by
  have htake := State.take_awaits h hc effect response mark
  obtain ⟨-, ⟨hlow, hobserved⟩, -⟩ := h
  simp only [htake, State.respond, State.setLpt, Lpt.answered, hscs, hobs, hlow, hobserved]

/-- A command whose take has no effect changes the port alone. -/
theorem exec_report (h : AwaitsCommand s) {c : Instr} (hc : takenCommand (portBytes c) = some c) {response report : List Byte}
    {mark delivered : Option Mark} (hexec : exec c s = .next (s.take c id response mark)) (hr : response = report)
    (hm : mark = delivered) : exec c s = .next { s with lpt := .answered (portBytes c) report delivered } := by
  rw [hexec, State.take_answered h hc (effect := id) rfl rfl, hr, hm]
  rfl

/-! ### GET-STATUS and GET-MEMBER (R186) -/

theorem State.memberReport_of_id {b : Byte} {i : StationId} (h : b.toNat = i.val) :
    s.memberReport b = (s.record i).report := by
  have hi : (⟨b.toNat, h ▸ i.isLt⟩ : StationId) = i := Fin.ext h
  rw [State.memberReport, dif_pos (h ▸ i.isLt), hi]

theorem State.memberReport_of_range {b : Byte} (h : 32 ≤ b.toNat) : s.memberReport b = refusal statusRange 4 :=
  dif_neg (by omega)

theorem tagCode_toNat (g : Tag) : (tagCode g).toNat = 4 * g.slot.val + g.gen.val := by
  obtain ⟨i, n⟩ := g
  revert i n
  decide

/-- Settles O43: each report is the model's, in the codes that its first part lists. -/
theorem statusAndMemberReports : Obligations.StatusAndMemberReports := by
  refine ⟨⟨rfl, rfl, rfl, rfl, by decide, rfl, rfl, tagCode_toNat, rfl⟩, fun s h => ?status, fun s b h =>
    ⟨fun i hi => ?member, fun hb => ?range, fun hb => ?unknown⟩⟩
  case status => exact exec_report h rfl rfl rfl rfl
  case member => exact exec_report h (c := .getMember b) rfl rfl (State.memberReport_of_id hi) rfl
  case range => exact exec_report h (c := .getMember b) rfl rfl (State.memberReport_of_range hb) rfl
  case unknown => exact exec_report h (c := .unknownCommand b) (takenCommand_unknown hb) rfl rfl rfl

/-! ### LOG-PEEK and LOG-TAKE (R187) -/

theorem State.logReport_of_empty (h : s.clg.records = []) : s.logReport = refusal statusEmpty 10 := by
  rw [State.logReport, h]

theorem State.logReport_of_oldest {r : CauseRecord} {l : List CauseRecord} (h : s.clg.records = r :: l) :
    s.logReport = r.report := by
  rw [State.logReport, h]

theorem State.logMark_of_empty (h : s.clg.records = []) : s.logMark = none := by
  rw [State.logMark, h]

theorem State.logMark_of_oldest {r : CauseRecord} {l : List CauseRecord} (h : s.clg.records = r :: l) :
    s.logMark = some (.record r.seq) := by
  rw [State.logMark, h]

theorem originByte_toNat (i : StationId) : (originByte (some i)).toNat = i.val := by
  revert i
  decide

theorem baseByte_toNat (b : Rank) : (baseByte (some b)).toNat = b.val := by
  revert b
  decide

/-- Settles O44: both commands report the oldest record as the model writes it, and LOG-TAKE marks it. -/
theorem logCommandsReportTheOldestRecord : Obligations.LogCommandsReportTheOldestRecord := by
  refine ⟨⟨rfl, rfl⟩, fun s h => ⟨fun hnil => ⟨?_, ?_⟩, fun r l hr =>
    ⟨causeCode r.cause ++ recordScopeCode r.scope ++ flagCode r.lossBefore ++ flagCode r.detail, originByte r.origin,
      baseByte r.base, ?_, ?_, ?_, ?_, ?_, ?_, ?_⟩⟩⟩
  · exact exec_report h (c := .logPeek) rfl rfl (State.logReport_of_empty hnil) rfl
  · exact exec_report h (c := .logTake) rfl rfl (State.logReport_of_empty hnil) (State.logMark_of_empty hnil)
  · exact exec_report h (c := .logPeek) rfl rfl (State.logReport_of_oldest hr) rfl
  · exact exec_report h (c := .logTake) rfl rfl (State.logReport_of_oldest hr) (State.logMark_of_oldest hr)
  · cases r.scope <;> rfl
  · exact fun hnone => by rw [hnone]; rfl
  · exact fun i hsome => by rw [hsome, originByte_toNat]
  · exact fun hnone => by rw [hnone]; rfl
  · exact fun b hsome => by rw [hsome, baseByte_toNat]

/-! ### QUERY-TAKE (R176) -/

theorem tagOfByte_of_range {b : Byte} (h : 16 ≤ b.toNat) : tagOfByte b = none := by
  refine if_neg fun hb => ?_
  have hhigh := congrArg BitVec.toNat hb
  simp only [BitVec.extractLsb'_toNat, BitVec.toNat_ofNat, Nat.shiftRight_eq_div_pow] at hhigh
  have := b.isLt
  omega

theorem tagOfByte_widened (g : Tag) : tagOfByte (0#4 ++ tagCode g) = some g := by
  obtain ⟨i, n⟩ := g
  revert i n
  decide

theorem tagOfByte_tagCode {b : Byte} {g : Tag} (h : b.toNat = (tagCode g).toNat) : tagOfByte b = some g := by
  have hb : b = 0#4 ++ tagCode g := BitVec.eq_of_toNat_eq (by rw [h, BitVec.toNat_append]; simp)
  rw [hb, tagOfByte_widened]

theorem State.queryTakeCase_of_range {b : Byte} (h : 16 ≤ b.toNat) : s.queryTakeCase b = .inl statusRange := by
  rw [State.queryTakeCase, tagOfByte_of_range h]

section
variable {b : Byte} {g : Tag}

theorem not_stale {sl : Slot} {n : Fin 4} (hs : sl.state ≠ .free) (hn : sl.gen = n) : ¬(sl.state = .free ∨ sl.gen ≠ n) :=
  fun h => h.elim hs (fun hne => hne hn)

theorem State.queryTakeCase_of_stale (h : b.toNat = (tagCode g).toNat)
    (hs : (s.qru.slots[g.slot]).state = .free ∨ (s.qru.slots[g.slot]).gen ≠ g.gen) :
    s.queryTakeCase b = .inl statusRange := by
  rw [State.queryTakeCase, tagOfByte_tagCode h]
  exact if_pos hs

theorem State.queryTakeCase_of_waiting (h : b.toNat = (tagCode g).toNat) (hs : (s.qru.slots[g.slot]).state = .waiting)
    (hg : (s.qru.slots[g.slot]).gen = g.gen) : s.queryTakeCase b = .inl statusPending := by
  rw [State.queryTakeCase, tagOfByte_tagCode h]
  exact (if_neg (not_stale (by rw [hs]; decide) hg)).trans (if_pos hs)

theorem State.queryTakeCase_of_done (h : b.toNat = (tagCode g).toNat) (hs : (s.qru.slots[g.slot]).state = .done)
    (hg : (s.qru.slots[g.slot]).gen = g.gen) : s.queryTakeCase b = .inr g.slot := by
  rw [State.queryTakeCase, tagOfByte_tagCode h]
  exact (if_neg (not_stale (by rw [hs]; decide) hg)).trans (if_neg (by rw [hs]; decide))

end

/-- R139: a refused QUERY-TAKE changes the port alone. -/
theorem exec_queryTake_refused (h : AwaitsCommand s) {b status : Byte} (hc : s.queryTakeCase b = .inl status) :
    exec (.queryTake b) s = .next { s with lpt := .answered [0x51#8, b] (refusal status 5) none } :=
  exec_report h (c := .queryTake b) rfl rfl (by rw [State.queryTakeResponse, hc]) (by rw [State.queryTakeMark, hc])

theorem exec_queryTake_done (h : AwaitsCommand s) {b : Byte} {i : SlotIx} (hc : s.queryTakeCase b = .inr i) :
    exec (.queryTake b) s = .next { s with lpt := .answered [0x51#8, b] (s.qru.slots[i]).report (some (.slot i)) } :=
  exec_report h (c := .queryTake b) rfl rfl (by rw [State.queryTakeResponse, hc]) (by rw [State.queryTakeMark, hc])

theorem Slot.report_eq (sl : Slot) : sl.report =
    [0x00#8,
      (match sl.outcome with
        | .ok => 0#2
        | .noAnswer => 1#2
        | .dropped => 2#2) ++ (if sl.status = .ok then 0#1 else 1#1) ++ 0#3 ++
        (match sl.item with
          | .status => 1#2
          | .logSummary => 2#2
          | .lastFault => 3#2),
      0#3 ++ BitVec.ofNat 5 sl.target.val, sl.data1, sl.data2] := by
  obtain ⟨_, _, _, item, outcome, status, _, _, _⟩ := sl
  cases item <;> cases outcome <;> cases status <;> rfl

/-- Settles O47: by what the tag comes to. -/
theorem queryTakeReportsADoneSlot : Obligations.QueryTakeReportsADoneSlot := by
  refine fun s b h => ⟨fun hb => ?_, fun g hb => ⟨fun hs => ?_, fun hs hg => ?_, fun hs hg => ?_⟩⟩
  · exact exec_queryTake_refused h (State.queryTakeCase_of_range hb)
  · exact exec_queryTake_refused h (State.queryTakeCase_of_stale hb hs)
  · exact exec_queryTake_refused h (State.queryTakeCase_of_waiting hb hs hg)
  · have hdone := exec_queryTake_done h (State.queryTakeCase_of_done hb hs hg)
    rw [Slot.report_eq] at hdone
    exact hdone

/-! ### CLEAR-EXCL (R90) -/

/-- R9: the own record of a MEMBER shows its board and its budget. -/
structure OwnShowsBoard (s : State) : Prop where
  board  : (s.record s.self).board = s.bsu.board
  budget : (s.record s.self).budget = s.bsu.budget

theorem State.setBsu_shows (hm : s.stc.station = .member) (b : Bsu) : OwnShowsBoard (s.setBsu b) := by
  have hown : (s.setBsu b).record s.self = ((s.putBsu b).record s.self).mirror s.rank b.board b.budget s.logPending :=
    (record_mirrorOwn (s.putBsu b) s.self).trans (if_pos ⟨hm, rfl⟩)
  have hself : (s.setBsu b).self = s.self := by simp [State.self]
  constructor <;> rw [hself]
  · exact (congrArg Record.board hown).trans (congrArg Bsu.board (s.setBsu_bsu b)).symm
  · exact (congrArg Record.budget hown).trans (congrArg Bsu.budget (s.setBsu_bsu b)).symm

theorem State.evalRelease_shows (hm : s.stc.station = .member) (h : OwnShowsBoard s) : OwnShowsBoard s.evalRelease := by
  unfold State.evalRelease
  split
  · exact State.setBsu_shows hm _
  · exact h

theorem State.evalRelease_budget (s : State) : s.evalRelease.bsu.budget = s.bsu.budget := by
  unfold State.evalRelease
  split
  · rw [State.setBsu_bsu]
  · rfl

/-- R90: the own record of a MEMBER after a cleared exclusion. -/
theorem State.clearExclusion_own (hm : s.stc.station = .member) (hb : s.bsu.board = .excluded) :
    (s.clearExclusion.record s.self).board = s.clearExclusion.bsu.board ∧ (s.clearExclusion.record s.self).budget = 0 := by
  have hcleared : s.clearExclusion = _ := if_pos hb
  have hchanged := s.setBsu_bsu { s.bsu with board := .held, budget := 0 }
  have hrecord : s.clearExclusion.record s.self =
      (s.setBsu { s.bsu with board := .held, budget := 0 }).evalRelease.record s.self := by
    simp [hcleared, State.record]
  obtain ⟨hshown, hbudget⟩ := State.evalRelease_shows (s := s.setBsu { s.bsu with board := .held, budget := 0 })
    (by simpa using hm) (State.setBsu_shows hm _)
  rw [State.evalRelease_budget, hchanged] at hbudget
  simp only [State.self, State.evalRelease_stc, State.setBsu_stc] at hshown hbudget
  exact ⟨by rw [hrecord, State.self, hshown, hcleared, State.settleTerms_bsu], by rw [hrecord, State.self, hbudget]⟩

/-- Settles O48: the exclusion cleared is a change of the board followed by the evaluation of the release. -/
theorem clearExclEndsAnExclusion : Obligations.ClearExclEndsAnExclusion := by
  refine fun s h => ⟨fun hb => ?_, fun hb => ?_⟩
  · have hcleared : s.clearExclusion = _ := if_pos hb
    obtain ⟨hboard, hdomain, htimers, hothers, hroom, hstc, hlif, hclg, hlpt, hpending⟩ :=
      s.setBsu_releaseSettled { s.bsu with board := .held, budget := 0 }
    rw [← hcleared] at hboard hdomain htimers hothers hroom hstc hlif hclg hlpt hpending
    refine ⟨_, congrArg Host.Outcome.next (State.take_answered h (c := .clearExcl) rfl (effect := State.clearExclusion)
      (congrArg Lpt.scs hlpt) (congrArg Lpt.observed hlpt) s.clearStatus none), ?_, ?_, hdomain, htimers, hothers, ?_, hroom,
      hstc, hlif, hclg, hpending⟩
    · exact hboard.of_same rfl rfl rfl rfl
    · rw [State.clearStatus, if_pos hb]
      rfl
    · exact fun hm => State.clearExclusion_own hm hb
  · have hsame : s.clearExclusion = s := if_neg hb
    have htake := State.take_answered h (c := .clearExcl) rfl (effect := State.clearExclusion) (by rw [hsame])
      (by rw [hsame]) s.clearStatus none
    rw [hsame, State.clearStatus, if_neg hb] at htake
    have hexec : exec .clearExcl s = .next (s.take .clearExcl State.clearExclusion s.clearStatus none) := rfl
    rw [hexec, State.clearStatus, if_neg hb, htake]
    rfl

end Sys2Proof.Machine

/-!
The local port's transactions (R138, R176, R187, R188): their beginning and end, the bytes shifted in and out, the take.
-/

namespace Sys2Proof.Machine

variable {s : State}

/-! ### The port commands (R138) -/

/-- Each port command is carried out at its take. -/
theorem exec_portCommand {c : Instr} (h : isPortCommand c = true) (s : State) :
    ∃ effect response mark, exec c s = .next (s.take c effect response mark) := by
  rcases isPortCommand_cases h with
    rfl | ⟨i, rfl⟩ | rfl | rfl | rfl | rfl | ⟨sc, rfl⟩ | ⟨k, it, rfl⟩ | ⟨tag, rfl⟩ | rfl | ⟨code, rfl⟩
  · exact ⟨id, s.statusReport, none, rfl⟩
  · exact ⟨id, s.memberReport i, none, rfl⟩
  · exact ⟨id, s.logReport, s.logMark, rfl⟩
  · exact ⟨id, s.logReport, none, rfl⟩
  · exact ⟨State.holdRequest .hold, s.memberStatus, none, rfl⟩
  · exact ⟨State.holdRequest .resume, s.memberStatus, none, rfl⟩
  · exact ⟨State.resetRequest sc, s.resetStatus sc, none, rfl⟩
  · exact ⟨State.queryEffect k it, s.queryResponse k it, none, rfl⟩
  · exact ⟨id, s.queryTakeResponse tag, s.queryTakeMark tag, rfl⟩
  · exact ⟨State.clearExclusion, s.clearStatus, none, rfl⟩
  · exact ⟨id, [statusRange], none, rfl⟩

theorem takenCommand_before_one (a : Byte) : ∀ n, n < 1 → takenCommand ([a].take n) = none
  | 0, _ => rfl

theorem takenCommand_before_two {a : Byte} (ha : commandOfByte a = none) (b : Byte) :
    ∀ n, n < 2 → takenCommand ([a, b].take n) = none
  | 0, _ => rfl
  | 1, _ => ha

theorem takenCommand_before_query (b c : Byte) : ∀ n, n < 3 → takenCommand ([0x50#8, b, c].take n) = none
  | 0, _ | 1, _ | 2, _ => rfl

/-- R138: no command is taken before its bytes are complete. -/
theorem takenCommand_of_incomplete {c : Instr} (h : isPortCommand c = true) :
    ∀ n, n < (portBytes c).length → takenCommand ((portBytes c).take n) = none := by
  rcases isPortCommand_cases h with
    rfl | ⟨i, rfl⟩ | rfl | rfl | rfl | rfl | ⟨sc, rfl⟩ | ⟨k, it, rfl⟩ | ⟨tag, rfl⟩ | rfl | ⟨code, rfl⟩
  · exact takenCommand_before_one _
  · exact takenCommand_before_two rfl i
  · exact takenCommand_before_one _
  · exact takenCommand_before_one _
  · exact takenCommand_before_one _
  · exact takenCommand_before_one _
  · exact takenCommand_before_two rfl sc
  · exact takenCommand_before_query k it
  · exact takenCommand_before_two rfl tag
  · exact takenCommand_before_one _
  · exact takenCommand_before_one _

/-! ### Bytes shifted in (R138) -/

/-- The port with these bytes received. -/
def State.received (s : State) (l : List Byte) : State := s.setLpt { s.lpt with received := l }

theorem AwaitsCommand.received (h : AwaitsCommand s) (l : List Byte) : AwaitsCommand (s.received l) := by
  obtain ⟨hst, hstarted, htaken⟩ := h
  exact ⟨hst, hstarted, htaken⟩

theorem State.shiftIn_received (h : AwaitsCommand s) (l : List Byte) (b : Byte) : (s.received l).shiftIn b =
    (s.received (l ++ [b])).setPending ((takenCommand (l ++ [b])).toList ++ s.pending) :=
  if_pos ((s.received l).canTake_iff.2 (h.received l))

/-- R138: bytes that complete no command are kept as received. -/
theorem State.foldl_shiftIn (h : AwaitsCommand s) (hr : s.lpt.received = []) (l : List Byte)
    (hnone : ∀ n, n ≤ l.length → takenCommand (l.take n) = none) : l.foldl State.shiftIn s = s.received l := by
  induction l using List.reverseRecOn with
  | nil =>
    show s = s.setLpt { s.lpt with received := [] }
    rw [← hr]
    rfl
  | append_singleton l b ih =>
    have hl : ∀ n, n ≤ l.length → takenCommand (l.take n) = none := fun n hn => by
      rw [← hnone n (by simp; omega), List.take_append_of_le_length hn]
    have hb : takenCommand (l ++ [b]) = none := by
      rw [← hnone (l ++ [b]).length le_rfl, List.take_length]
    rw [List.foldl_append, ih hl, List.foldl_cons, List.foldl_nil, State.shiftIn_received h, hb]
    rfl

/-- R138: the bytes of a port command, shifted in one by one, bring it to the front of the queue. -/
theorem State.foldl_shiftIn_portBytes (h : AwaitsCommand s) (hr : s.lpt.received = []) {c : Instr}
    (hc : isPortCommand c = true) (hw : WellFormed c = true) :
    (portBytes c).foldl State.shiftIn s =
      { s with lpt := { s.lpt with received := portBytes c }, pending := c :: s.pending } := by
  have hlast : portBytes c ≠ [] := by
    rcases isPortCommand_cases hc with
      rfl | ⟨_, rfl⟩ | rfl | rfl | rfl | rfl | ⟨_, rfl⟩ | ⟨_, _, rfl⟩ | ⟨_, rfl⟩ | rfl | ⟨_, rfl⟩
    all_goals exact List.cons_ne_nil _ _
  have hsplit := List.dropLast_append_getLast hlast
  have hnone : ∀ n, n ≤ (portBytes c).dropLast.length → takenCommand ((portBytes c).dropLast.take n) = none := fun n hn => by
    have hlen := List.length_pos_of_ne_nil hlast
    rw [List.length_dropLast] at hn
    rw [← takenCommand_of_incomplete hc n (by omega), List.dropLast_eq_take, List.take_take, Nat.min_eq_left hn]
  rw [← hsplit, List.foldl_append, State.foldl_shiftIn h hr _ hnone, List.foldl_cons, List.foldl_nil,
    State.shiftIn_received h, hsplit, takenCommand_portBytes hc hw]
  rfl

/-! ### The end of a transaction (R187, R188) -/

theorem exec_transactionEnd_high (h : s.lpt.scs = .high) (n : Nat) : exec (.transactionEnd n) s = .next s := by
  show execTransactionEnd n s = _
  rw [execTransactionEnd, h]

theorem exec_transactionEnd_cut (h : s.lpt.scs = .cut) (n : Nat) :
    exec (.transactionEnd n) s = .next { s with lpt := { s.lpt with scs := .high } } := by
  show execTransactionEnd n s = _
  rw [execTransactionEnd, h]
  rfl

theorem exec_transactionEnd_low (h : s.lpt.scs = .low) (n : Nat) :
    exec (.transactionEnd n) s = .next (s.shiftOut n).endTransaction := by
  show execTransactionEnd n s = _
  rw [execTransactionEnd, h]

@[simp] theorem State.shiftOut_scs (s : State) (n : Nat) : (s.shiftOut n).lpt.scs = s.lpt.scs := by rw [State.shiftOut_eq]

/-- R188: the command of the rise counts the bytes that the port has not yet counted. -/
theorem exec_transactionEnd_shiftOut (s : State) (m n : Nat) :
    exec (.transactionEnd n) (s.shiftOut m) = exec (.transactionEnd (m + n)) s := by
  cases hscs : s.lpt.scs with
  | low =>
    rw [exec_transactionEnd_low hscs, exec_transactionEnd_low (s := s.shiftOut m) (by rw [State.shiftOut_scs, hscs]),
      State.shiftOut_add]
  | high => rw [State.shiftOut_off m (by simp [hscs]), exec_transactionEnd_high hscs, exec_transactionEnd_high hscs]
  | cut => rw [State.shiftOut_off m (by simp [hscs]), exec_transactionEnd_cut hscs, exec_transactionEnd_cut hscs]

section
variable {n : Nat} (hlow : s.lpt.scs = .low) (ht : s.lpt.taken = true)
include hlow ht

theorem State.shiftOut_delivered_iff :
    (s.shiftOut n).lpt.delivered = true ↔ s.lpt.response.length ≤ s.lpt.shifted + n := by
  rw [State.shiftOut_taken n hlow ht]
  simp only [Lpt.delivered, ht, Bool.true_and, decide_eq_true_eq]
  omega

/-- The port after the rise that ends a transaction in which a command was taken. -/
def State.portEnded (s : State) (n : Nat) : Lpt :=
  { s.lpt with scs := .high, observed := false, shifted := min (s.lpt.shifted + n) s.lpt.response.length, mark := none }

theorem exec_transactionEnd_whole (hwhole : s.lpt.response.length ≤ s.lpt.shifted + n) :
    exec (.transactionEnd n) s = .next (((s.shiftOut n).deliver s.lpt.mark).setLpt (s.portEnded n)) := by
  rw [exec_transactionEnd_low hlow, State.endTransaction_delivered ((State.shiftOut_delivered_iff hlow ht).2 hwhole),
    State.shiftOut_taken n hlow ht]
  rfl

theorem exec_transactionEnd_part (hpart : s.lpt.shifted + n < s.lpt.response.length) :
    exec (.transactionEnd n) s = .next { s with lpt := s.portEnded n } := by
  have hnot : (s.shiftOut n).lpt.delivered = false :=
    Bool.eq_false_iff.2 fun h => absurd ((State.shiftOut_delivered_iff hlow ht).1 h) (by omega)
  rw [exec_transactionEnd_low hlow, State.endTransaction_undelivered hnot, State.shiftOut_taken n hlow ht]
  rfl

end

/-- R187: the oldest record leaves when it is the marked one. -/
theorem State.deliver_record {u : State} {seq : Byte} {r : CauseRecord} {l : List CauseRecord} (hr : u.clg.records = r :: l) :
    u.deliver (some (.record seq)) = if r.seq = seq then u.removeOldest else u := by
  show (match u.clg.records with
    | r :: _ => if r.seq = seq then u.removeOldest else u
    | [] => u) = _
  rw [hr]

theorem State.removeOldest_clg (s : State) : s.removeOldest.clg = { s.clg with records := s.clg.records.tail } := by
  simp [State.removeOldest]

theorem State.removeOldest_follows (s : State) : OnlyOwnFollows s s.removeOldest :=
  (s.setClg { s.clg with records := s.clg.records.tail }).mirrorOwn_follows.of_same rfl rfl

/-- R187: a rise after the whole response of a LOG-TAKE. -/
theorem recordDelivered {n : Nat} {seq : Byte} {r : CauseRecord} {l : List CauseRecord} (hlow : s.lpt.scs = .low)
    (ht : s.lpt.taken = true) (hwhole : s.lpt.response.length ≤ s.lpt.shifted + n) (hmark : s.lpt.mark = some (.record seq))
    (hr : s.clg.records = r :: l) : ∃ t, exec (.transactionEnd n) s = .next t ∧
      t.clg = { s.clg with records := if r.seq = seq then l else r :: l } ∧
      (r.seq = seq → OnlyOwnFollows s t) ∧ (r.seq ≠ seq → t.dvu = s.dvu) ∧ t.lpt = s.portEnded n ∧
      SameDomain s.dvu t.dvu ∧ SameTimers s.dvu t.dvu ∧
      t.stc = s.stc ∧ t.lif = s.lif ∧ t.txq = s.txq ∧ t.bsu = s.bsu ∧ t.qru = s.qru ∧ t.pending = s.pending := by
  have hexec := exec_transactionEnd_whole hlow ht hwhole
  rw [hmark, State.deliver_record (by simpa using hr)] at hexec
  by_cases hseq : r.seq = seq
  · rw [if_pos hseq] at hexec
    have hfollows : OnlyOwnFollows s (s.shiftOut n).removeOldest := (s.shiftOut n).removeOldest_follows.of_same (by simp) (by simp)
    refine ⟨_, hexec, ?_, fun _ => hfollows.then_same rfl rfl rfl, fun hne => absurd hseq hne, rfl, ?_, ?_, by simp, by simp,
      by simp, by simp, by simp, by simp⟩
    · simp [State.removeOldest_clg, hr, hseq]
    · constructor <;> simp
    · constructor <;> simp
  · rw [if_neg hseq] at hexec
    refine ⟨_, hexec, ?_, fun h => absurd h hseq, fun _ => by simp, rfl, ?_, ?_, by simp, by simp, by simp, by simp, by simp,
      by simp⟩
    · simp only [State.setLpt_clg, State.shiftOut_clg, if_neg hseq, ← hr]
    · constructor <;> simp
    · constructor <;> simp

/-- R176: a rise after the whole response of a QUERY-TAKE. -/
theorem slotDelivered {n : Nat} {i : SlotIx} (hlow : s.lpt.scs = .low) (ht : s.lpt.taken = true)
    (hwhole : s.lpt.response.length ≤ s.lpt.shifted + n) (hmark : s.lpt.mark = some (.slot i))
    (hdone : (s.qru.slots[i]).state = .done) :
    ∃ q, exec (.transactionEnd n) s = .next { s with lpt := s.portEnded n, qru := q } ∧
      q.slots[i] = { s.qru.slots[i] with state := .free } ∧ (∀ j : SlotIx, j ≠ i → q.slots[j] = s.qru.slots[j]) ∧
      q.lastFault = s.qru.lastFault := by
  refine ⟨(s.updateSlot i Slot.release).qru, ?_, ?_, fun j hj => ?_, by simp⟩
  · rw [exec_transactionEnd_whole hlow ht hwhole, hmark, State.shiftOut_taken n hlow ht]
    rfl
  · rw [slots_updateSlot, if_pos rfl, Slot.release, if_pos hdone]
  · rw [slots_updateSlot, if_neg hj]

/-! ### SDO (R138, R113) -/

theorem State.sdo_low (h : s.lpt.scs = .low) :
    s.sdo = some (if s.lpt.taken then (s.lpt.response[s.lpt.shifted]?).getD 0xFF#8 else 0xFF#8) := by
  rw [State.sdo, h]

theorem State.sdo_cut (h : s.lpt.scs = .cut) : s.sdo = if s.stc.station = .start then some 0xFF#8 else none := by
  rw [State.sdo, h]

/-- R138: what SDO carries once `k` more bytes of a taken command's response have gone out. -/
theorem State.sdo_shiftOut (hlow : s.lpt.scs = .low) (ht : s.lpt.taken = true) (k : Nat) : (s.shiftOut k).sdo =
    some ((s.lpt.response[min (s.lpt.shifted + k) s.lpt.response.length]?).getD 0xFF#8) := by
  rw [State.sdo_low (by rw [State.shiftOut_scs, hlow]), State.shiftOut_taken k hlow ht, ht]
  rfl

/-! ### The statement -/

/-- Settles O42: the beginning and the end of a transaction, the take, and the bytes on SDI and SDO. -/
theorem transactionsCarryOneCommand : Obligations.TransactionsCarryOneCommand := by
  refine ⟨fun s => ⟨fun h => if_pos h, fun n h => exec_transactionEnd_cut h n, fun n hlow ht => ?untaken,
      fun m n => exec_transactionEnd_shiftOut s m n, fun n p hlow ht hp => ?ended⟩,
    fun s c hc hoff => ?off, fun s c hc hw h => ?taken, fun s b h => State.shiftIn_off h b,
    fun s => ⟨fun h => ?undriven, fun hlow ht => ⟨?ones, fun k => State.shiftOut_off k (by simp [ht])⟩, fun hlow ht k =>
      ⟨State.shiftOut_taken k hlow ht, fun b hb => ?byte, fun hover => ?after⟩, fun hcut hst => ?cut, fun hcut hst => ?outside⟩⟩
  case ended =>
    have hp' : p = s.portEnded n := hp
    subst hp'
    refine ⟨fun hnothing => ?_, fun hwhole seq r l => recordDelivered hlow ht hwhole, fun hwhole i => slotDelivered hlow ht hwhole⟩
    rcases lt_or_ge (s.lpt.shifted + n) s.lpt.response.length with hpart | hwhole
    · exact exec_transactionEnd_part hlow ht hpart
    · have hmark := hnothing.resolve_left (by omega)
      rw [exec_transactionEnd_whole hlow ht hwhole, hmark, State.shiftOut_taken n hlow ht]
      rfl
  case off =>
    obtain ⟨effect, response, mark, hexec⟩ := exec_portCommand hc s
    rw [hexec, State.take_off hoff]
  case taken =>
    obtain ⟨effect, response, mark, hexec⟩ := exec_portCommand hc s
    have htaken := takenCommand_portBytes hc hw
    rw [State.take_awaits h htaken] at hexec
    exact ⟨_, hexec, rfl, rfl, htaken, fun n hn => takenCommand_of_incomplete hc n hn,
      fun hr => State.foldl_shiftIn_portBytes h hr hc hw⟩
  case untaken =>
    have hnot : (s.shiftOut n).lpt.delivered = false := by
      rw [State.shiftOut_off n (by simp [ht]), Lpt.delivered, ht, Bool.false_and]
    rw [exec_transactionEnd_low hlow, State.endTransaction_undelivered hnot, State.shiftOut_off n (by simp [ht])]
  case undriven => rw [State.sdo, h]
  case ones => rw [State.sdo_low hlow, ht]; rfl
  case byte =>
    obtain ⟨hlt, -⟩ := List.getElem?_eq_some_iff.1 hb
    rw [State.sdo_shiftOut hlow ht, Nat.min_eq_left (Nat.le_of_lt hlt), hb, Option.getD_some]
  case after =>
    rw [State.sdo_shiftOut hlow ht, Nat.min_eq_right hover, List.getElem?_eq_none le_rfl, Option.getD_none]
  case cut => rw [State.sdo_cut hcut, if_pos hst]
  case outside => rw [State.sdo_cut hcut, if_neg hst]

end Sys2Proof.Machine

/-!
The requests of the local port (R85, R86, R96, R97, R139, R169 to R171): HOLD-REQ, RESUME-REQ, RESET-REQ and QUERY-REQ.
-/

namespace Sys2Proof.Machine

variable {s : State}

/-! ### HOLD-REQ and RESUME-REQ (R96, R97) -/

theorem State.holdRequest_of_member (h : s.stc.station = .member) (a : HoldAction) :
    s.holdRequest a = s.request (.hold a) :=
  if_pos (s.isMember_iff.2 h)

theorem State.holdRequest_of_not_member (h : s.stc.station ≠ .member) (a : HoldAction) : s.holdRequest a = s :=
  if_neg fun hm => h (s.isMember_iff.1 hm)

theorem State.memberStatus_eq (s : State) :
    s.memberStatus = [if s.stc.station = .member then 0x00#8 else 0x03#8] := by
  by_cases h : s.stc.station = .member
  · rw [State.memberStatus, if_pos (s.isMember_iff.2 h), if_pos h]
    rfl
  · rw [State.memberStatus, if_neg fun hm => h (s.isMember_iff.1 hm), if_neg h]
    rfl

/-- The take of HOLD-REQ and RESUME-REQ, by the action they ask for. -/
theorem exec_holdRequest {c : Instr} {code : Byte} {a : HoldAction} (h : AwaitsCommand s)
    (hc : (c = .holdReq ∧ code = 0x30#8 ∧ a = .hold) ∨ (c = .resumeReq ∧ code = 0x31#8 ∧ a = .resume)) :
    exec c s = .next { s.holdRequest a with lpt := .answered [code] s.memberStatus none } := by
  have hlpt : (s.holdRequest a).lpt = s.lpt := by simp
  rcases hc with ⟨rfl, rfl, rfl⟩ | ⟨rfl, rfl, rfl⟩
  · exact congrArg Host.Outcome.next (State.take_answered h (c := .holdReq) rfl (effect := State.holdRequest .hold)
      (congrArg Lpt.scs hlpt) (congrArg Lpt.observed hlpt) _ none)
  · exact congrArg Host.Outcome.next (State.take_answered h (c := .resumeReq) rfl (effect := State.holdRequest .resume)
      (congrArg Lpt.scs hlpt) (congrArg Lpt.observed hlpt) _ none)

/-- R160, R96: an action asked for beside one in flight is remembered. -/
theorem Txq.request_hold_inFlight {q : Txq} (hflight : q.inFlight = some .hold) (hh : q.holds .hold = true) (a : HoldAction) :
    (q.request (.hold a)).1 = { q with remembered := some (.hold a) } := by
  have hrem : rememberRequest q.remembered (.hold a) = some (.hold a) := by
    cases q.remembered <;> rfl
  rw [Txq.request, if_pos (by simpa [Entry.key] using hh), if_pos (by simpa [Entry.key] using hflight), hrem]

/-- R158, R96: an action asked for while one waits replaces it. -/
theorem Txq.request_hold_waiting {q : Txq} (hflight : q.inFlight ≠ some .hold) (hh : q.holds .hold = true) (a : HoldAction) :
    (q.request (.hold a)).1 = { q with entries := q.entries.map (fun e => if e.key = .hold then .hold a else e) } := by
  have hmerge : ∀ e : Entry, (if e.key = (Entry.hold a).key then e.mergeRequest (.hold a) else e) =
      if e.key = .hold then .hold a else e := by
    intro e
    cases e <;> rfl
  rw [Txq.request, if_pos (by simpa [Entry.key] using hh), if_neg (by simpa [Entry.key] using hflight)]
  simp only [hmerge]

/-! ### RESET-REQ (R85, R86) -/

theorem scopeOfByte_code {b : Byte} {sc : Scope} (h : b.toNat = (scopeCode sc).toNat) : scopeOfByte b = some sc := by
  have hb : b = BitVec.ofNat 8 (scopeCode sc).toNat := BitVec.eq_of_toNat_eq (by rw [h]; cases sc <;> rfl)
  rw [hb]
  cases sc <;> rfl

theorem scopeOfByte_eq_none_iff (b : Byte) : scopeOfByte b = none ↔ b.toNat = 0 ∨ 3 < b.toNat := by
  revert b
  decide

/-- The append of a record leaves the transaction as it is. -/
theorem State.append_transaction (s : State) (c : Cause) (sc : Option Scope) (o : Option StationId) (b : Option Rank) :
    (s.append c sc o b).lpt.scs = s.lpt.scs ∧ (s.append c sc o b).lpt.observed = s.lpt.observed := by
  have hroom : s.makeRoom.lpt.scs = s.lpt.scs ∧ s.makeRoom.lpt.observed = s.lpt.observed := by
    unfold State.makeRoom
    split <;> exact ⟨rfl, rfl⟩
  simpa [State.append] using hroom

theorem State.faultRecorded_transaction (s : State) (c : Cause) (sc : Scope) :
    (s.faultRecorded c sc).lpt.scs = s.lpt.scs ∧ (s.faultRecorded c sc).lpt.observed = s.lpt.observed := by
  unfold State.faultRecorded
  simp only
  split
  · simp [State.append_transaction]
  · simp [State.append_transaction]

theorem State.localFault_transaction (hr : s.running = true) (c : Cause) (sc : Scope) :
    (s.localFault c sc).lpt.scs = s.lpt.scs ∧ (s.localFault c sc).lpt.observed = s.lpt.observed := by
  rw [State.localFault_eq hr]
  simpa using s.faultRecorded_transaction c sc

theorem FaultDetected.of_port {t : State} {c : Cause} {sc : Scope} (h : FaultDetected s t c sc) (p : Lpt) :
    FaultDetected s { t with lpt := p } c sc := by
  obtain ⟨hbudget, hexcluded, hrecover, hlast, hrequest, hready, hothers, hslots, ⟨hdomain, htimers, hfollows⟩, hrest⟩ := h
  exact ⟨hbudget, hexcluded, hrecover, hlast, hrequest, hready, hothers, hslots,
    ⟨hdomain, htimers, hfollows.then_same rfl rfl rfl⟩, hrest⟩

theorem State.resetRequest_refused {b : Byte}
    (h : scopeOfByte b = none ∨ s.stc.station ≠ .member ∨ boardRunning s.bsu.board = false) : s.resetRequest b = s := by
  unfold State.resetRequest
  split
  · next sc hsc =>
    refine if_neg fun hok => ?_
    obtain ⟨hm, hr⟩ := Bool.and_eq_true_iff.1 hok
    rcases h with h | h | h
    · simp [hsc] at h
    · exact h (s.isMember_iff.1 hm)
    · simp [State.running, h] at hr
  · rfl

/-- R139: a refused RESET-REQ changes the port alone. -/
theorem exec_resetReq_refused (h : AwaitsCommand s) {b status : Byte} (hsame : s.resetRequest b = s)
    (hstatus : s.resetStatus b = [status]) :
    exec (.resetReq b) s = .next { s with lpt := .answered [0x40#8, b] [status] none } := by
  have htake := State.take_answered h (c := .resetReq b) rfl (effect := State.resetRequest b) (by rw [hsame])
    (by rw [hsame]) (s.resetStatus b) none
  rw [hsame, hstatus] at htake
  have hexec : exec (.resetReq b) s = .next (s.take (.resetReq b) (State.resetRequest b) (s.resetStatus b) none) := rfl
  rw [hexec, hstatus, htake]
  rfl

/-- Settles O45: the hold requests by their merging in the queue, RESET-REQ by the local fault that it detects. -/
theorem holdAndResetRequestsNeedMember : Obligations.HoldAndResetRequestsNeedMember := by
  refine ⟨fun s c code a h hc => ⟨fun hm => ?asked, fun hm => ?refused⟩, fun s b h =>
    ⟨fun sc hb hm hr hbudget hq => ?detected, fun h1 h3 hoff => ?state, fun hb => ?range⟩⟩
  case asked =>
    refine ⟨_, exec_holdRequest h hc, ?_, fun hflight hh => ?_, fun hflight hh => ?_, fun hh hlen => ?_, fun hlen => ?_, ?_,
      by simp, by simp, by simp, by simp, by simp, by simp⟩
    · rw [State.memberStatus_eq, if_pos hm]
    · rw [State.holdRequest_of_member hm]
      exact (s.request_txq _).trans (Txq.request_hold_inFlight hflight hh a)
    · rw [State.holdRequest_of_member hm]
      exact (s.request_txq _).trans (Txq.request_hold_waiting hflight hh a)
    · rw [State.holdRequest_of_member hm]
      exact (s.request_txq _).trans (congrArg Prod.fst (Txq.request_fresh (.hold a) hlen hh))
    · rw [State.holdRequest_of_member hm]
      exact State.request_qru_room _ hlen
    · rw [State.holdRequest_of_member hm]
      exact s.request_lastFault _
  case refused => rw [exec_holdRequest h hc, State.holdRequest_of_not_member hm, State.memberStatus_eq, if_neg hm]
  case detected =>
    have hrunning : (s.isMember && s.running) = true := Bool.and_eq_true_iff.2 ⟨s.isMember_iff.2 hm, hr⟩
    have heffect : s.resetRequest b = s.localFault .soft sc := by
      rw [State.resetRequest, scopeOfByte_code hb]
      exact if_pos hrunning
    have hstatus : s.resetStatus b = [0x00#8] := by
      rw [State.resetStatus, scopeOfByte_code hb]
      exact if_pos hrunning
    obtain ⟨hscs, hobs⟩ := State.localFault_transaction hr .soft sc
    rw [← heffect] at hscs hobs
    refine ⟨_, congrArg Host.Outcome.next (State.take_answered h (c := .resetReq b) rfl (effect := State.resetRequest b)
      hscs hobs (s.resetStatus b) none), ?_, ?_⟩
    · rw [heffect]
      exact (State.localFault_detected hr hbudget hq .soft sc).of_port _
    · rw [hstatus]
      rfl
  case state =>
    obtain ⟨sc, hsc⟩ := Option.ne_none_iff_exists'.1 fun hnone => by
      have := (scopeOfByte_eq_none_iff b).1 hnone
      omega
    refine exec_resetReq_refused h (State.resetRequest_refused (.inr hoff)) ?_
    rw [State.resetStatus, hsc]
    refine if_neg fun hok => ?_
    obtain ⟨hm, hr⟩ := Bool.and_eq_true_iff.1 hok
    rcases hoff with hoff | hoff
    · exact hoff (s.isMember_iff.1 hm)
    · simp [State.running, hoff] at hr
  case range =>
    have hnone := (scopeOfByte_eq_none_iff b).2 hb
    exact exec_resetReq_refused h (State.resetRequest_refused (.inl hnone)) (by rw [State.resetStatus, hnone]; rfl)

end Sys2Proof.Machine

/-!
QUERY-REQ (R139, R169 to R171): its refusals in order, and the slot that an accepted one takes.
-/

namespace Sys2Proof.Machine

variable {s : State}

/-! ### Its arguments (R139) -/

theorem idOfByte_of_id {b : Byte} {i : StationId} (h : b.toNat = i.val) : idOfByte b = some i := by
  rw [idOfByte, dif_pos (h ▸ i.isLt)]
  exact congrArg some (Fin.ext h)

theorem idOfByte_of_range {b : Byte} (h : 32 ≤ b.toNat) : idOfByte b = none := dif_neg (by omega)

theorem itemOfByte_code {b : Byte} {item : Item} (h : b.toNat = (itemCode item).toNat) : itemOfByte b = some item := by
  have hb : b = BitVec.ofNat 8 (itemCode item).toNat := BitVec.eq_of_toNat_eq (by rw [h]; cases item <;> rfl)
  rw [hb]
  cases item <;> rfl

theorem itemOfByte_eq_none_iff (b : Byte) : itemOfByte b = none ↔ b.toNat = 0 ∨ 3 < b.toNat := by
  revert b
  decide

/-! ### The slot it takes (R170) -/

theorem Qru.freeSlot_eq_some {q : Qru} {j : SlotIx} (hj : (q.slots[j]).state = .free)
    (hbelow : ∀ m : SlotIx, m < j → (q.slots[m]).state ≠ .free) : q.freeSlot = some j := by
  have hix : slotIxs = List.finRange 4 := by decide
  rw [Qru.freeSlot, hix, List.find?_eq_some_iff_getElem]
  refine ⟨by rw [hj]; decide, j, by simp, by simp, fun m hm => ?_⟩
  have hne := hbelow ⟨m, hm.trans j.isLt⟩ hm
  simpa using hne

theorem Qru.freeSlot_eq_none {q : Qru} (h : ∀ j : SlotIx, (q.slots[j]).state ≠ .free) : q.freeSlot = none := by
  refine List.find?_eq_none.2 fun j _ => ?_
  have hne := h j
  simpa using hne

/-! ### What it comes to (R171) -/

section
variable {b k : Byte} {i : StationId} {item : Item}

theorem State.queryCase_of_range (h : 32 ≤ b.toNat ∨ k.toNat = 0 ∨ 3 < k.toNat) : s.queryCase b k = .inl statusRange := by
  rcases h with h | h
  · rw [State.queryCase, idOfByte_of_range h]
  · rw [State.queryCase, (itemOfByte_eq_none_iff k).2 h]
    cases idOfByte b <;> rfl

variable (hb : b.toNat = i.val) (hk : k.toNat = (itemCode item).toNat)
include hb hk

theorem State.queryCase_of_args : s.queryCase b k =
    if s.isMember = false then .inl statusState
    else if (s.record i).present = false then .inl statusRange
    else s.qru.freeSlot.elim (.inl statusBusy) (fun j => .inr (j, i, item)) := by
  rw [State.queryCase, idOfByte_of_id hb, itemOfByte_code hk]
  cases s.qru.freeSlot <;> rfl

theorem State.queryCase_of_not_member (hm : s.stc.station ≠ .member) : s.queryCase b k = .inl statusState := by
  rw [State.queryCase_of_args hb hk, if_pos (Bool.eq_false_iff.2 fun h => hm (s.isMember_iff.1 h))]

theorem State.queryCase_of_absent (hm : s.stc.station = .member) (hp : (s.record i).present = false) :
    s.queryCase b k = .inl statusRange := by
  rw [State.queryCase_of_args hb hk, if_neg (by simp [s.isMember_iff.2 hm]), if_pos hp]

theorem State.queryCase_of_busy (hm : s.stc.station = .member) (hp : (s.record i).present = true)
    (hfree : ∀ j : SlotIx, (s.qru.slots[j]).state ≠ .free) : s.queryCase b k = .inl statusBusy := by
  rw [State.queryCase_of_args hb hk, if_neg (by simp [s.isMember_iff.2 hm]), if_neg (by simp [hp]),
    Qru.freeSlot_eq_none hfree, Option.elim_none]

theorem State.queryCase_of_free (hm : s.stc.station = .member) (hp : (s.record i).present = true) {j : SlotIx}
    (hj : (s.qru.slots[j]).state = .free) (hbelow : ∀ m : SlotIx, m < j → (s.qru.slots[m]).state ≠ .free) :
    s.queryCase b k = .inr (j, i, item) := by
  rw [State.queryCase_of_args hb hk, if_neg (by simp [s.isMember_iff.2 hm]), if_neg (by simp [hp]),
    Qru.freeSlot_eq_some hj hbelow, Option.elim_some]

end

/-! ### The take -/

theorem exec_queryReq (h : AwaitsCommand s) (b k : Byte) : exec (.queryReq b k) s =
    .next { s.queryEffect b k with lpt := .answered [0x50#8, b, k] (s.queryResponse b k) none } := by
  have hlpt : (s.queryEffect b k).lpt = s.lpt := by simp
  exact congrArg Host.Outcome.next (State.take_answered h (c := .queryReq b k) rfl (effect := State.queryEffect b k)
    (congrArg Lpt.scs hlpt) (congrArg Lpt.observed hlpt) _ none)

theorem exec_queryReq_refused (h : AwaitsCommand s) {b k status : Byte} (hc : s.queryCase b k = .inl status) :
    exec (.queryReq b k) s = .next { s with lpt := .answered [0x50#8, b, k] [status, 0xFF#8] none } := by
  rw [exec_queryReq h, State.queryEffect, State.queryResponse, hc]
  rfl

theorem exec_queryReq_accepted (h : AwaitsCommand s) {b k : Byte} {j : SlotIx} {i : StationId} {item : Item}
    (hc : s.queryCase b k = .inr (j, i, item)) : exec (.queryReq b k) s = .next { s.ask j i item with
      lpt := .answered [0x50#8, b, k] [0x00#8, 0#4 ++ tagCode ⟨j, (s.qru.slots[j]).gen + 1⟩] none } := by
  rw [exec_queryReq h, State.queryEffect, State.queryResponse, hc]
  rfl

/-! ### The question (R170, R171) -/

theorem State.ask_self (j : SlotIx) (item : Item) : s.ask j s.self item =
    (s.updateSlot j (fun sl => sl.allocate s.self item)).updateSlot j (fun sl => s.selfAnswered sl item) :=
  if_pos rfl

theorem State.ask_other {i : StationId} (hi : i ≠ s.self) (j : SlotIx) (item : Item) : s.ask j i item =
    (s.updateSlot j (fun sl => sl.allocate i item)).request (.query i item ⟨j, (s.qru.slots[j]).gen + 1⟩) := by
  have hgen : ((s.updateSlot j (fun sl => sl.allocate i item)).qru.slots[j]).gen = (s.qru.slots[j]).gen + 1 := by
    rw [slots_updateSlot, if_pos rfl, Slot.allocate]
  rw [State.ask, if_neg hi, hgen]

/-- With room for the QUERY, the slots after a question are those of the allocation, and of the answer where it is the
station's own. -/
theorem State.ask_qru (hlen : s.txq.entries.length < 12) (j : SlotIx) (i : StationId) (item : Item) :
    (s.ask j i item).qru.slots[j] = (if i = s.self then s.selfAnswered ((s.qru.slots[j]).allocate i item) item
      else (s.qru.slots[j]).allocate i item) ∧
    (∀ m : SlotIx, m ≠ j → (s.ask j i item).qru.slots[m] = s.qru.slots[m]) ∧
    (s.ask j i item).qru.lastFault = s.qru.lastFault := by
  by_cases hi : i = s.self
  · rw [if_pos hi, hi, State.ask_self]
    refine ⟨?_, fun m hm => ?_, by simp⟩
    · rw [slots_updateSlot, if_pos rfl, slots_updateSlot, if_pos rfl]
    · rw [slots_updateSlot, if_neg hm, slots_updateSlot, if_neg hm]
  · rw [if_neg hi, State.ask_other hi, State.request_qru_room _ (by simpa [Config.queueCapacity] using hlen)]
    refine ⟨?_, fun m hm => ?_, by simp⟩
    · rw [slots_updateSlot, if_pos rfl]
    · rw [slots_updateSlot, if_neg hm]

/-- Settles O46: the refusals in their order, and the slot of an accepted request, asked or answered at once. -/
theorem queryRequestIsRefusedOrAllocated : Obligations.QueryRequestIsRefusedOrAllocated := by
  refine ⟨fun s b k h => ⟨fun hrange => exec_queryReq_refused h (State.queryCase_of_range hrange), fun i item hb hk =>
    ⟨fun hm => exec_queryReq_refused h (State.queryCase_of_not_member hb hk hm),
      fun hm hp => exec_queryReq_refused h (State.queryCase_of_absent hb hk hm hp),
      fun hm hp hfree => exec_queryReq_refused h (State.queryCase_of_busy hb hk hm hp hfree)⟩⟩,
    fun s b k i item j h hb hk hm hp hj hbelow hlen => ?_⟩
  obtain ⟨htaken, hothers, hlast⟩ := State.ask_qru hlen j i item
  refine ⟨_, exec_queryReq_accepted h (State.queryCase_of_free hb hk hm hp hj hbelow), rfl, fun hi => ⟨?waits, fun hfresh => ?asked⟩,
    fun hi => ?self, hothers, hlast, by simp, by simp, by simp, by simp, by simp, by simp⟩
  case waits => exact htaken.trans (if_neg hi)
  case asked =>
    rw [State.ask_other hi]
    exact (State.request_txq _ _).trans (congrArg Prod.fst
      (Txq.request_fresh (q := s.txq) (.query i item ⟨j, (s.qru.slots[j]).gen + 1⟩) hlen hfresh))
  case self =>
    rw [if_pos hi] at htaken
    refine ⟨?_, congrArg Slot.state htaken, congrArg Slot.outcome htaken, congrArg Slot.gen htaken, congrArg Slot.target htaken,
      congrArg Slot.item htaken, congrArg Slot.timer htaken, ?_⟩
    · rw [hi, State.ask_self]
      simp
    · exact congrArg (fun sl : Slot => (sl.status, sl.data1, sl.data2)) htaken

end Sys2Proof.Machine

/-!
Frames as characters (R128, R129, R132 to R135): what each character spells, and a frame read back as it was sent.
-/

namespace Sys2Proof.Machine

/-! ### Codes read back (R132) -/

theorem causeOfCode_causeCode {c : Cause} (h : causeTravels c = true) : causeOfCode (causeCode c) = some c := by
  cases c with
  | emrg | powerOn | stnReset | dupId | isolated | excluded | catchUp => cases h
  | _ => rfl

theorem scopeOfCode_scopeCode (sc : Scope) : scopeOfCode (scopeCode sc) = some sc := by
  cases sc <;> rfl

theorem frontCode_toNat (r : Rank) : (frontCode (.rank r)).toNat = r.val := by
  revert r
  decide

theorem frontOfCode_frontCode (f : Front) : frontOfCode (frontCode f) = some f := by
  cases f with
  | rank r =>
    revert r
    decide
  | _ => rfl

theorem boardOfCode_boardCode (b : BoardState) : boardOfCode (boardCode b) = some b := by
  cases b <;> rfl

theorem itemOfCode_itemCode (item : Item) : itemOfCode (itemCode item) = some item := by
  cases item <;> rfl

theorem replyStatusOfCode_replyStatusCode (st : ReplyStatus) : replyStatusOfCode (replyStatusCode st) = some st := by
  cases st <;> rfl

theorem actionOfCode_actionCode (a : HoldAction) : actionOfCode (actionCode a) = some a := by
  cases a <;> rfl

theorem tagOfCode_tagCode (g : Tag) : tagOfCode (tagCode g) = g := by
  obtain ⟨i, n⟩ := g
  revert i n
  decide

theorem flagOfCode_flagCode (b : Bool) : flagOfCode (flagCode b) = b := by
  cases b <;> rfl

theorem rankCode_toNat (r : Rank) : (rankCode r).toNat = r.val := by
  simp [rankCode]

theorem idCode_toNat (i : StationId) : (idCode i).toNat = i.val := by
  simp [idCode]

theorem budgetCode_toNat (n : Budget) : (budgetCode n).toNat = n.val := by
  simp [budgetCode]

theorem rankOfCode_rankCode (r : Rank) : rankOfCode (rankCode r) = r := Fin.ext (rankCode_toNat r)

theorem idOfCode_idCode (i : StationId) : idOfCode (idCode i) = i := Fin.ext (idCode_toNat i)

theorem budgetOfCode_budgetCode (n : Budget) : budgetOfCode (budgetCode n) = n := Fin.ext (budgetCode_toNat n)

/-! ### Fields side by side -/

section
variable {p q r : Nat} (a : BitVec p) (b : BitVec q) (c : BitVec r)

theorem toNat_append_eq_add : (a ++ b).toNat = 2 ^ q * a.toNat + b.toNat := by
  rw [BitVec.toNat_append, ← Nat.shiftLeft_add_eq_or_of_lt b.isLt, Nat.shiftLeft_eq, Nat.mul_comm]

theorem toNat_append_append : (a ++ b ++ c).toNat = 2 ^ (q + r) * a.toNat + 2 ^ r * b.toNat + c.toNat := by
  rw [toNat_append_eq_add, toNat_append_eq_add, Nat.pow_add]
  ring

theorem extractLsb'_append_middle : (a ++ b ++ c).extractLsb' r q = b := by
  rw [BitVec.extractLsb'_append_eq_of_le le_rfl, Nat.sub_self, BitVec.extractLsb'_append_eq_right]

theorem extractLsb'_append_first : (a ++ b ++ c).extractLsb' (r + q) p = a := by
  rw [BitVec.extractLsb'_append_eq_of_le (Nat.le_add_right r q), Nat.add_sub_cancel_left, BitVec.extractLsb'_append_eq_left]

end

/-! ### The characters of a frame (R128, R129, 7.9) -/

theorem classCode_val_lt (b : Body) : (classCode b).val < 2 ^ 3 := (classCode b).isLt

theorem char1_toNat (f : Frame) : (char1 f).toNat = 32 * (classCode f.body).val + f.sender.val := by
  have h := toNat_append_eq_add (BitVec.ofNat 3 (classCode f.body).val) (idCode f.sender)
  rw [idCode_toNat, BitVec.toNat_ofNat, Nat.mod_eq_of_lt (classCode_val_lt f.body)] at h
  exact h

theorem rankChar_toNat (r : Rank) : (0#1 ++ 0#2 ++ 0#2 ++ rankCode r : Byte).toNat = r.val ∧
    (0#5 ++ rankCode r : Byte).toNat = r.val := by
  revert r
  decide

theorem idChar_toNat (i : StationId) : (0#3 ++ idCode i : Byte).toNat = i.val ∧
    (1#1 ++ 0#2 ++ idCode i : Byte).toNat = 128 + i.val := by
  revert i
  decide

theorem flagChar_toNat (x y z : Bool) : (flagCode x ++ flagCode y ++ flagCode z ++ 0#5 : Byte).toNat =
    128 * x.toNat + 64 * y.toNat + 32 * z.toNat := by
  cases x <;> cases y <;> cases z <;> rfl

theorem tagChar_toNat (item : Item) (g : Tag) : (itemCode item ++ tagCode g : Byte).toNat =
    16 * (itemCode item).toNat + 4 * g.slot.val + g.gen.val := by
  have h := toNat_append_eq_add (itemCode item) (tagCode g)
  rw [tagCode_toNat, ← Nat.add_assoc] at h
  exact h

theorem rankPair_toNat (r k : Rank) : (rankCode r ++ 0#2 ++ rankCode k : Byte).toNat = 32 * r.val + k.val := by
  have h := toNat_append_append (rankCode r) 0#2 (rankCode k)
  rw [rankCode_toNat, rankCode_toNat] at h
  exact h

theorem boardChar_toNat (r : Rank) (b : BoardState) (n : Budget) :
    (rankCode r ++ boardCode b ++ budgetCode n : Byte).toNat = 32 * r.val + 4 * (boardCode b).toNat + n.val := by
  have h := toNat_append_append (rankCode r) (boardCode b) (budgetCode n)
  rw [rankCode_toNat, budgetCode_toNat] at h
  exact h

theorem frontChar_toNat (f : Front) (r : Rank) :
    (frontCode f ++ 0#1 ++ rankCode r : Byte).toNat = 16 * (frontCode f).toNat + r.val := by
  have h := toNat_append_append (frontCode f) 0#1 (rankCode r)
  rw [rankCode_toNat] at h
  exact h

/-- The layout of a frame is its first character, its epoch and the layout of its body. -/
theorem frameLayout_of_body {f : Frame} {l : List Nat} (h : (bodyChars f.body).map BitVec.toNat = l) :
    (frameChars f).map BitVec.toNat = (32 * (classCode f.body).val + f.sender.val) :: f.epoch.toNat :: l :=
  List.cons_eq_cons.2 ⟨char1_toNat f, List.cons_eq_cons.2 ⟨rfl, h⟩⟩

theorem frameChars_toNat (f : Frame) : (frameChars f).map BitVec.toNat = frameLayout f := by
  obtain ⟨sender, epoch, body⟩ := f
  cases body with
  | fault c =>
    exact frameLayout_of_body (congrArg₂ List.cons (toNat_append_append (causeCode c.cause) (scopeCode c.scope) 0#2)
      (congrArg₂ List.cons (rankPair_toNat c.senderRank c.rewindRank) rfl))
  | rankTimeout k => exact frameLayout_of_body (congrArg₂ List.cons (rankChar_toNat k).1 rfl)
  | memberSilent i => exact frameLayout_of_body (congrArg₂ List.cons (idChar_toNat i).2 rfl)
  | advance old new =>
    exact frameLayout_of_body (congrArg₂ List.cons (toNat_append_eq_add (frontCode old) (frontCode new)) rfl)
  | hold a => cases a <;> exact frameLayout_of_body rfl
  | ready r => exact frameLayout_of_body (congrArg₂ List.cons (rankChar_toNat r).2 rfl)
  | query target item tag =>
    exact frameLayout_of_body (congrArg₂ List.cons (idChar_toNat target).1 (congrArg₂ List.cons (tagChar_toNat item tag) rfl))
  | reply r =>
    have hstatus : (replyStatusCode r.status).toNat = if r.status = .ok then 0 else 1 := by
      cases r.status <;> rfl
    exact frameLayout_of_body (congrArg₂ List.cons (idChar_toNat r.requester).1
      (congrArg₂ List.cons (tagChar_toNat r.item r.tag) (congrArg₂ List.cons hstatus rfl)))
  | announce a =>
    exact frameLayout_of_body (congrArg₂ List.cons (boardChar_toNat a.senderRank a.board a.budget)
      (congrArg₂ List.cons (frontChar_toNat a.front a.base)
        (congrArg₂ List.cons (flagChar_toNat a.gather a.holding a.logPending) rfl)))

/-- The layout's numbers are the characters again. -/
theorem frameLayout_chars (f : Frame) : (frameLayout f).map (BitVec.ofNat 8) = frameChars f := by
  rw [← frameChars_toNat, List.map_map]
  exact (List.map_congr_left fun c _ => by simp).trans (List.map_id _)

/-! ### Reading the characters back (R129, R132, R134) -/

theorem faultOfChars_faultChars {f : FaultFields} (h : causeTravels f.cause = true) :
    faultOfChars (causeCode f.cause ++ scopeCode f.scope ++ 0#2) (rankCode f.senderRank ++ 0#2 ++ rankCode f.rewindRank) =
      some (.fault f) := by
  have hcause : (causeCode f.cause ++ scopeCode f.scope ++ 0#2 : Byte).extractLsb' 4 4 = causeCode f.cause :=
    extractLsb'_append_first _ _ _
  have hscope : (causeCode f.cause ++ scopeCode f.scope ++ 0#2 : Byte).extractLsb' 2 2 = scopeCode f.scope :=
    extractLsb'_append_middle _ _ _
  have hzero : (causeCode f.cause ++ scopeCode f.scope ++ 0#2 : Byte).extractLsb' 0 2 = 0#2 :=
    BitVec.extractLsb'_append_eq_right
  have hsender : (rankCode f.senderRank ++ 0#2 ++ rankCode f.rewindRank : Byte).extractLsb' 5 3 = rankCode f.senderRank :=
    extractLsb'_append_first _ _ _
  have hgap : (rankCode f.senderRank ++ 0#2 ++ rankCode f.rewindRank : Byte).extractLsb' 3 2 = 0#2 :=
    extractLsb'_append_middle _ _ _
  have hrewind : (rankCode f.senderRank ++ 0#2 ++ rankCode f.rewindRank : Byte).extractLsb' 0 3 = rankCode f.rewindRank :=
    BitVec.extractLsb'_append_eq_right
  rw [faultOfChars, hcause, hscope, causeOfCode_causeCode h, scopeOfCode_scopeCode]
  simp only [hzero, hsender, hgap, hrewind, rankOfCode_rankCode, and_self, if_true]

theorem lapseOfChars_rankTimeout (k : Rank) : lapseOfChars (0#1 ++ 0#2 ++ 0#2 ++ rankCode k) = some (.rankTimeout k) := by
  revert k
  decide

theorem lapseOfChars_memberSilent (i : StationId) : lapseOfChars (1#1 ++ 0#2 ++ idCode i) = some (.memberSilent i) := by
  revert i
  decide

theorem readyOfChars_ready (r : Rank) : readyOfChars (0#5 ++ rankCode r) = some (.ready r) := by
  revert r
  decide

theorem advanceOfChars_advance (old new : Front) :
    advanceOfChars (frontCode old ++ frontCode new) = some (.advance old new) := by
  have hold : (frontCode old ++ frontCode new : Byte).extractLsb' 4 4 = frontCode old := BitVec.extractLsb'_append_eq_left
  have hnew : (frontCode old ++ frontCode new : Byte).extractLsb' 0 4 = frontCode new := BitVec.extractLsb'_append_eq_right
  rw [advanceOfChars, hold, hnew, frontOfCode_frontCode, frontOfCode_frontCode]

theorem holdOfChars_hold (a : HoldAction) : holdOfChars (actionCode a) = some (.hold a) := by
  rw [holdOfChars, actionOfCode_actionCode, Option.map_some]

/-- The two characters that a QUERY and a REPLY begin with. -/
theorem askChars_fields (i : StationId) (item : Item) (g : Tag) :
    (0#3 ++ idCode i : Byte).extractLsb' 5 3 = 0#3 ∧ (0#3 ++ idCode i : Byte).extractLsb' 0 5 = idCode i ∧
      (itemCode item ++ tagCode g : Byte).extractLsb' 4 4 = itemCode item ∧
      (itemCode item ++ tagCode g : Byte).extractLsb' 0 4 = tagCode g :=
  ⟨BitVec.extractLsb'_append_eq_left, BitVec.extractLsb'_append_eq_right, BitVec.extractLsb'_append_eq_left,
    BitVec.extractLsb'_append_eq_right⟩

theorem queryOfChars_query (i : StationId) (item : Item) (g : Tag) :
    queryOfChars (0#3 ++ idCode i) (itemCode item ++ tagCode g) = some (.query i item g) := by
  obtain ⟨hzero, hid, hitem, htag⟩ := askChars_fields i item g
  rw [queryOfChars, hitem, itemOfCode_itemCode]
  simp only [hzero, hid, htag, idOfCode_idCode, tagOfCode_tagCode, if_true]

theorem replyOfChars_reply (r : ReplyFields) :
    replyOfChars (0#3 ++ idCode r.requester) (itemCode r.item ++ tagCode r.tag) (replyStatusCode r.status) r.data1 r.data2 =
      some (.reply r) := by
  obtain ⟨hzero, hid, hitem, htag⟩ := askChars_fields r.requester r.item r.tag
  rw [replyOfChars, hitem, itemOfCode_itemCode, replyStatusOfCode_replyStatusCode]
  simp only [hzero, hid, htag, idOfCode_idCode, tagOfCode_tagCode, if_true]

theorem flagChar_fields (x y z : Bool) :
    (flagCode x ++ flagCode y ++ flagCode z ++ 0#5 : Byte).extractLsb' 7 1 = flagCode x ∧
      (flagCode x ++ flagCode y ++ flagCode z ++ 0#5 : Byte).extractLsb' 6 1 = flagCode y ∧
      (flagCode x ++ flagCode y ++ flagCode z ++ 0#5 : Byte).extractLsb' 5 1 = flagCode z ∧
      (flagCode x ++ flagCode y ++ flagCode z ++ 0#5 : Byte).extractLsb' 0 5 = 0#5 := by
  revert x y z
  decide

theorem announceOfChars_announce (a : AnnounceFields) :
    announceOfChars (rankCode a.senderRank ++ boardCode a.board ++ budgetCode a.budget)
      (frontCode a.front ++ 0#1 ++ rankCode a.base)
      (flagCode a.gather ++ flagCode a.holding ++ flagCode a.logPending ++ 0#5) = some (.announce a) := by
  have hrank : (rankCode a.senderRank ++ boardCode a.board ++ budgetCode a.budget : Byte).extractLsb' 5 3 =
      rankCode a.senderRank := extractLsb'_append_first _ _ _
  have hboard : (rankCode a.senderRank ++ boardCode a.board ++ budgetCode a.budget : Byte).extractLsb' 2 3 =
      boardCode a.board := extractLsb'_append_middle _ _ _
  have hbudget : (rankCode a.senderRank ++ boardCode a.board ++ budgetCode a.budget : Byte).extractLsb' 0 2 =
      budgetCode a.budget := BitVec.extractLsb'_append_eq_right
  have hfront : (frontCode a.front ++ 0#1 ++ rankCode a.base : Byte).extractLsb' 4 4 = frontCode a.front :=
    extractLsb'_append_first _ _ _
  have hgap : (frontCode a.front ++ 0#1 ++ rankCode a.base : Byte).extractLsb' 3 1 = 0#1 := extractLsb'_append_middle _ _ _
  have hbase : (frontCode a.front ++ 0#1 ++ rankCode a.base : Byte).extractLsb' 0 3 = rankCode a.base :=
    BitVec.extractLsb'_append_eq_right
  obtain ⟨hgather, hholding, hlog, hzero⟩ := flagChar_fields a.gather a.holding a.logPending
  rw [announceOfChars, hboard, hfront, boardOfCode_boardCode, frontOfCode_frontCode]
  simp only [hrank, hbudget, hgap, hbase, hgather, hholding, hlog, hzero, rankOfCode_rankCode, budgetOfCode_budgetCode,
    flagOfCode_flagCode, and_self, if_true]

theorem bodyOfChars_bodyChars {f : Frame} (h : frameValid f = true) :
    bodyOfChars (classCode f.body).val (bodyChars f.body) = some f.body := by
  obtain ⟨sender, epoch, body⟩ := f
  cases body with
  | fault c => exact faultOfChars_faultChars h
  | rankTimeout k => exact lapseOfChars_rankTimeout k
  | memberSilent i => exact lapseOfChars_memberSilent i
  | advance old new => exact advanceOfChars_advance old new
  | hold a => exact holdOfChars_hold a
  | ready r => exact readyOfChars_ready r
  | query target item tag => exact queryOfChars_query target item tag
  | reply r => exact replyOfChars_reply r
  | announce a => exact announceOfChars_announce a

theorem frameOfChars_frameChars {f : Frame} (h : frameValid f = true) : frameOfChars (frameChars f) = some f := by
  have hclass : ((char1 f).extractLsb' 5 3).toNat = (classCode f.body).val := by
    have hcode : (char1 f).extractLsb' 5 3 = BitVec.ofNat 3 (classCode f.body).val := BitVec.extractLsb'_append_eq_left
    rw [hcode, BitVec.toNat_ofNat, Nat.mod_eq_of_lt (classCode_val_lt f.body)]
  have hsender : (char1 f).extractLsb' 0 5 = idCode f.sender := BitVec.extractLsb'_append_eq_right
  rw [frameChars, frameOfChars, hclass, bodyOfChars_bodyChars h, hsender, idOfCode_idCode]
  exact if_pos h

theorem encodeFrame_length (f : Frame) : (encodeFrame f).length = frameLength (classCode f.body).val := by
  obtain ⟨sender, epoch, body⟩ := f
  cases body <;> rfl

/-- Settles O55: each character spells its fields and gives them back. -/
theorem receivingAFrameInvertsSendingIt : Obligations.ReceivingAFrameInvertsSendingIt := by
  refine ⟨fun f => ?_, fun chars h => ?_, fun f h => ⟨?_, encodeFrame_length f⟩⟩
  · rw [encodeFrame, List.map_append, frameChars_toNat, frameLayout_chars, crcSerial_eq]
    rfl
  · rw [crcSerial_eq] at h
    exact if_neg h
  · rw [receiveFrame, encodeFrame, List.getLast?_concat, List.dropLast_concat, if_pos rfl, frameOfChars_frameChars h]

end Sys2Proof.Machine

/-!
The Transmit Queue (R144, R146, R158, R159, R165, R166, R173): the entry that a full queue discards, the offered entry and the
attempt that sends it.
-/

namespace Sys2Proof.Machine

variable {s : State}

/-! ### A full queue (R165) -/

theorem YoungestOfLeastUrgent.mem {l : List Entry} {d : Entry} (h : YoungestOfLeastUrgent l d) : d ∈ l := by
  obtain ⟨-, older, younger, hl, -⟩ := h
  simp [hl]

theorem Txq.leastUrgent_eq {q : Txq} {d : Entry} (h : YoungestOfLeastUrgent q.waiting d) : q.leastUrgent = d.urgency := by
  refine le_antisymm ?_ (Txq.urgency_le_leastUrgent h.mem)
  rcases foldl_max_mem (q.waiting.map Entry.urgency) 0 with hz | hm
  · rw [Txq.leastUrgent, hz]
    exact Nat.zero_le _
  · obtain ⟨x, hx, hu⟩ := List.mem_map.1 hm
    rw [Txq.leastUrgent, ← hu]
    exact h.least x hx

theorem Txq.youngestOf_eq {q : Txq} {d : Entry} (h : YoungestOfLeastUrgent q.waiting d) : q.youngestOf d.urgency = some d := by
  obtain ⟨-, older, younger, hl, hy⟩ := h
  have hnone : younger.reverse.find? (fun e => e.urgency == d.urgency) = none :=
    List.find?_eq_none.2 fun x hx => by simpa using hy x (List.mem_reverse.1 hx)
  rw [Txq.youngestOf, hl, List.reverse_append, List.reverse_cons, List.append_assoc, List.find?_append, hnone]
  simp

section
variable {q : Txq} {e d : Entry} (hfull : q.entries.length = 12) (hfresh : q.holds e.key = false)
  (hd : YoungestOfLeastUrgent q.waiting d)
include hfull hfresh hd

/-- R165: a more urgent entry displaces the youngest of the least urgent ones. -/
theorem Txq.request_displaces (hu : e.urgency < d.urgency) :
    q.request e = ({ q with entries := q.entries.filter (fun y => y.key ≠ d.key) ++ [e] }, some d) := by
  rw [Txq.request, if_neg (by simp [hfresh]), Txq.add, if_neg (by simp [hfull, Config.queueCapacity]), Txq.leastUrgent_eq hd,
    if_pos hu, Txq.youngestOf_eq hd]
  rfl

/-- R165: any other entry is discarded itself. -/
theorem Txq.request_discards (hu : d.urgency ≤ e.urgency) : q.request e = (q, some e) := by
  rw [Txq.request, if_neg (by simp [hfresh]), Txq.add, if_neg (by simp [hfull, Config.queueCapacity]), Txq.leastUrgent_eq hd,
    if_neg (not_lt.2 hu)]

end

/-- R166, R173: what a discard of `x` makes of the slots of `s`. -/
structure DiscardHanded (s t : State) (x : Entry) : Prop where
  fault : t.qru.lastFault = s.qru.lastFault
  query : ∀ k item g, x = .query k item g → t.qru.slots[g.slot] = (s.qru.slots[g.slot]).drop ∧
    ∀ j : SlotIx, j ≠ g.slot → t.qru.slots[j] = s.qru.slots[j]
  other : (∀ k item g, x ≠ .query k item g) → t.qru = s.qru

theorem State.handDiscard_handed (s : State) (x : Entry) : DiscardHanded s (s.handDiscard (some x)) x := by
  cases x with
  | query k item g =>
    refine ⟨s.updateSlot_lastFault g.slot Slot.drop, ?_, fun h => absurd rfl (h k item g)⟩
    intro _ _ _ h
    cases h
    exact ⟨(slots_updateSlot s g.slot g.slot Slot.drop).trans (if_pos rfl),
      fun j hj => (slots_updateSlot s g.slot j Slot.drop).trans (if_neg hj)⟩
  | _ => exact ⟨rfl, nofun, fun _ => rfl⟩

theorem State.handDiscard_eq (s : State) (d : Option Entry) : s.handDiscard d = { s with qru := (s.handDiscard d).qru } := by
  unfold State.handDiscard
  split <;> rfl

/-- R165, R166: a request that discards `x` and leaves the queue `q`. -/
theorem State.request_of_discard {e x : Entry} {q : Txq} (h : s.txq.request e = (q, some x)) :
    s.request e = { s with txq := q, qru := (s.request e).qru } ∧ DiscardHanded s (s.request e) x := by
  have hreq : s.request e = (s.setTxq q).handDiscard (some x) := by rw [State.request, h]
  obtain ⟨hfault, hquery, hother⟩ := (s.setTxq q).handDiscard_handed x
  rw [hreq]
  exact ⟨State.handDiscard_eq _ _, hfault, hquery, hother⟩

/-- Settles O52: by the class of the request and that of the entry it might displace. -/
theorem fullQueueDiscardsTheLeastUrgent : Obligations.FullQueueDiscardsTheLeastUrgent := by
  intro s e d _ hfull hfresh hd
  rcases lt_or_ge e.urgency d.urgency with hu | hu
  · have hreq := Txq.request_displaces hfull hfresh hd hu
    obtain ⟨ht, hfault, hquery, hother⟩ := State.request_of_discard hreq
    have htxq := (s.request_txq e).trans (congrArg Prod.fst hreq)
    exact ⟨_, d, rfl, by rw [htxq]; exact ht, hfault, fun _ => ⟨rfl, htxq⟩, fun h => absurd h (not_le.2 hu), hquery, hother⟩
  · have hreq := Txq.request_discards hfull hfresh hd hu
    obtain ⟨ht, hfault, hquery, hother⟩ := State.request_of_discard hreq
    have htxq := (s.request_txq e).trans (congrArg Prod.fst hreq)
    exact ⟨_, e, rfl, by rw [htxq]; exact ht, hfault, fun h => absurd h (not_lt.2 hu), fun _ => ⟨rfl, htxq⟩, hquery, hother⟩

/-! ### The offered entry (R159) -/

theorem firstInOrder_eq_none_iff (l : List Entry) : firstInOrder l = none ↔ l = [] := by
  cases l with
  | nil => simp [firstInOrder]
  | cons e l =>
    simp only [firstInOrder, reduceCtorEq, iff_false]
    split
    · split <;> simp
    · simp

/-- R159: the first in order is the oldest of the most urgent class. -/
theorem firstInOrder_split {l : List Entry} {e : Entry} (h : firstInOrder l = some e) :
    ∃ older younger, l = older ++ e :: younger ∧ (∀ x ∈ older, e.urgency < x.urgency) ∧ ∀ x ∈ younger, e.urgency ≤ x.urgency := by
  induction l generalizing e with
  | nil => cases h
  | cons a l ih =>
    cases hl : firstInOrder l with
    | none =>
      have hnil := (firstInOrder_eq_none_iff l).1 hl
      simp only [firstInOrder, hl, Option.some.injEq] at h
      exact ⟨[], [], by simp [hnil, h], by simp, by simp⟩
    | some f =>
      obtain ⟨older, younger, hsplit, holder, hyounger⟩ := ih hl
      simp only [firstInOrder, hl] at h
      split at h
      · next hlt =>
        obtain rfl := Option.some.inj h
        exact ⟨a :: older, younger, by rw [hsplit, List.cons_append], List.forall_mem_cons.2 ⟨hlt, holder⟩, hyounger⟩
      · next hle =>
        obtain rfl := Option.some.inj h
        exact ⟨[], l, rfl, by simp, fun x hx => (not_lt.1 hle).trans (firstInOrder_least hl hx)⟩

theorem State.offered_eq_none_iff (s : State) : s.offered = none ↔
    s.stc.station ≠ .member ∨ ∀ e ∈ s.txq.entries, s.txq.inFlight = some e.key := by
  by_cases hm : s.stc.station = .member
  · rw [State.offered, if_pos (s.isMember_iff.2 hm), firstInOrder_eq_none_iff, Txq.waiting, List.filter_eq_nil_iff]
    simp [hm]
  · rw [State.offered, if_neg fun h => hm (s.isMember_iff.1 h)]
    simp [hm]

/-! ### The attempt (R144, R146, R130, R131) -/

theorem exec_attemptStart_of_none (h : s.offered = none) : exec .attemptStart s = .next s := by
  show execAttemptStart s = _
  rw [execAttemptStart, h]

theorem exec_attemptStart_of_some {e : Entry} (h : s.offered = some e) :
    exec .attemptStart s = if s.lif.mayBegin then .next (s.beginAttempt e) else .next s := by
  show execAttemptStart s = _
  rw [execAttemptStart, h]

theorem exec_attemptStart_of_gapTaken (hg : s.lif.gapTaken = true) (hj : s.lif.joinWindow = false) :
    exec .attemptStart s = .next s := by
  cases h : s.offered with
  | none => exact exec_attemptStart_of_none h
  | some e =>
    have hnot : ¬s.lif.mayBegin = true := by simp [Lif.mayBegin_iff, hg, hj]
    rw [exec_attemptStart_of_some h, if_neg hnot]

/-- Settles O20: what is offered, when nothing begins, and the frame that an attempt fixes. -/
theorem attemptsSendTheMostUrgentEntry : Obligations.AttemptsSendTheMostUrgentEntry := by
  refine ⟨fun s => ⟨s.offered_eq_none_iff, fun e he => ?offered⟩, fun s =>
    ⟨exec_attemptStart_of_none, exec_attemptStart_of_gapTaken, fun e he hdrive hmismatch hnow =>
      ⟨s.fill e, (exec_attemptStart_of_some he).trans (if_pos (s.lif.mayBegin_iff.2 ⟨hdrive, hmismatch, hnow⟩)), ?body⟩⟩⟩
  case offered =>
    have hm := s.isMember_iff.2 (State.offered_member he)
    rw [State.offered, if_pos hm] at he
    exact firstInOrder_split he
  case body => cases e <;> rfl

end Sys2Proof.Machine

/-!
Duplicate identities (R123, R147, R148): collisions counted, and frames under the station's own ID.
-/

namespace Sys2Proof.Machine

variable {s : State}

/-! ### Entering BLOCKED from a state that shares its blocks -/

theorem EnteredBlocked.of_same {u t : State} (h : EnteredBlocked u t) (hstc : u.stc = s.stc) (hdvu : u.dvu = s.dvu)
    (hbsu : u.bsu = s.bsu) (hqru : u.qru = s.qru) (hclg : u.clg = s.clg) (hpending : u.pending = s.pending)
    (hdrive : u.lif.drive.stopFrame = s.lif.drive.stopFrame) : EnteredBlocked s t := by
  obtain ⟨station, ⟨drive, mismatch⟩, queue, log, view, board, slots, fault, pending⟩ := h
  rw [← Drive.stopFrame_eq, hdrive, Drive.stopFrame_eq] at drive
  have hself : u.self = s.self := by simp [State.self, hstc]
  have hprofile : u.profile = s.profile := by simp [State.profile, hstc]
  rw [hself] at log
  rw [hprofile] at board slots
  exact ⟨hstc ▸ station, ⟨drive, mismatch⟩, queue, hclg ▸ hstc ▸ hdvu ▸ log, hdvu ▸ view, hbsu ▸ board, hqru ▸ slots,
    hqru ▸ fault, hpending ▸ pending⟩

theorem EnteredBlocked.frameDone {t : State} (h : EnteredBlocked s t) : EnteredBlocked s t.frameDone := by
  obtain ⟨station, drive, queue, log, view, board, slots, fault, pending⟩ := h
  exact ⟨station, drive, queue, log, view, board, slots, fault, pending⟩

/-! ### Collisions (R147) -/

theorem Drive.stopFrame_stopFrame (d : Drive) : d.stopFrame.stopFrame = d.stopFrame :=
  Drive.stopFrame_of_not_isFrame d.stopFrame_isFrame

theorem State.collide_of_first (h : s.lif.collisions = 0) : s.collide = s.counted := by
  rw [State.collide_eq, h]
  exact if_neg fun ⟨hlimit, _⟩ => absurd hlimit (by decide)

theorem State.collide_of_second (hm : s.stc.station = .member) (h : s.lif.collisions ≠ 0) :
    s.collide = s.counted.enterBlocked := by
  have hbump : ∀ n : Fin 3, n ≠ 0 → (bumpCollisions n).val = Config.collisionLimit := by decide
  rw [State.collide_eq]
  exact if_pos ⟨hbump _ h, s.isMember_iff.2 hm⟩

theorem State.counted_enterBlocked (s : State) : EnteredBlocked s s.counted.enterBlocked :=
  s.counted.enterBlocked_entered.of_same rfl rfl rfl rfl rfl rfl (Drive.stopFrame_stopFrame _)

theorem State.counted_first (h : s.lif.collisions = 0) : s.counted = { s with
    lif := { s.lif with
      drive := if s.lif.drive.isFrame then .none else s.lif.drive, mismatch := false, collisions := 1 }
    txq := s.txq.fail } := by
  rw [← Drive.stopFrame_eq, State.counted, h]
  rfl

/-! ### Frames under the own ID (R148) -/

/-- The arrival of a valid frame, whatever its class. -/
theorem exec_of_validFrame {c : Instr} {f : Frame} (h : c.frame? = some f) (hv : frameValid f = true) (s : State) :
    exec c s = .next (s.settleCollision.arriveValid f (State.ruleFor f)) := by
  rw [exec_of_frame h, State.arrive, if_neg (by simp [hv])]

theorem Lif.drove_of_not_isFrame {l : Lif} (h : l.drive.isFrame = false) (f : Frame) : l.drove f = false :=
  Bool.eq_false_iff.2 fun hd => by simp [Lif.drove_isFrame hd] at h

theorem Drive.isFrame_eq_false {d : Drive} (h : ∀ g n, d ≠ .frame g n) : d.isFrame = false := by
  cases d with
  | frame g n => exact absurd rfl (h g n)
  | _ => rfl

theorem State.arriveValid_quiet (h : s.lif.drive.isFrame = false) (f : Frame) (rule : State → State) :
    s.arriveValid f rule = s.takeArrival f rule :=
  if_neg (by simp [h])

theorem State.takeArrival_own_id (hm : s.stc.station = .member) (hd : s.lif.drive.isFrame = false) {f : Frame}
    (hf : f.sender = s.self) (rule : State → State) : s.takeArrival f rule = s.frameDone.enterBlocked := by
  unfold State.takeArrival
  rw [hm]
  simp [Lif.drove_of_not_isFrame hd, hf]

theorem State.takeArrival_deaf (hst : s.stc.station = .isolated ∨ s.stc.station = .blocked) (f : Frame)
    (rule : State → State) : s.takeArrival f rule = s.frameDone := by
  unfold State.takeArrival
  rcases hst with h | h <;> rw [h]

theorem State.ownId_blocks (hm : s.stc.station = .member) (hd : s.lif.drive.isFrame = false) {f : Frame}
    (hf : f.sender = s.self) (rule : State → State) : EnteredBlocked s (s.settleCollision.arriveValid f rule) := by
  have hcounted : s.counted.lif.drive.isFrame = false := by
    rw [show s.counted.lif.drive = s.lif.drive.stopFrame from rfl, Drive.stopFrame_isFrame]
  by_cases hdue : s.receiving && s.lif.collisionDue
  · rw [State.settleCollision, if_pos hdue]
    by_cases hfirst : s.lif.collisions = 0
    · rw [State.collide_of_first hfirst, State.arriveValid_quiet hcounted, State.takeArrival_own_id (s := s.counted) hm hcounted hf]
      exact s.counted.frameDone.enterBlocked_entered.of_same rfl rfl rfl rfl rfl rfl (Drive.stopFrame_stopFrame _)
    · have hblocked := s.counted_enterBlocked
      rw [State.collide_of_second hm hfirst, State.arriveValid_quiet (by simp [State.enterBlocked_lif]),
        State.takeArrival_deaf (.inr (by rw [hblocked.station]))]
      exact hblocked.frameDone
  · rw [State.settleCollision, if_neg hdue, State.arriveValid_quiet hd, State.takeArrival_own_id hm hd hf]
    exact s.frameDone.enterBlocked_entered.of_same rfl rfl rfl rfl rfl rfl rfl

/-- Settles O10: the counts of a collision, the frame under the own ID, and the order of the two. -/
theorem duplicateIdentityBlocks : Obligations.DuplicateIdentityBlocks := by
  refine ⟨fun s hm hatt hclass hlen => ⟨fun hfirst => ?first, fun hsecond => ?second⟩, fun s c f hc hv hm hd hf => ?ownId,
    fun s c f hc hv hst => ?order⟩
  case first =>
    have hexec := exec_collisionAfterArbitration (s.lif.attempting_iff.2 hatt) hclass hlen
    rw [State.collide_of_first hfirst, State.counted_first hfirst] at hexec
    exact ⟨_, s.txq.fail_failed, hexec⟩
  case second =>
    refine ⟨_, exec_collisionAfterArbitration (s.lif.attempting_iff.2 hatt) hclass hlen, ?_, ?_⟩
    · rw [State.collide_of_second hm hsecond]
      exact s.counted_enterBlocked
    · have hbump : ∀ n : Fin 3, n ≠ 0 → bumpCollisions n = 2 := by decide
      rw [State.collide_lif]
      exact hbump _ hsecond
  case ownId => exact ⟨_, exec_of_validFrame hc hv s, State.ownId_blocks hm (Drive.isFrame_eq_false hd) hf _⟩
  case order =>
    exact collisionFirst_of_exec (F := fun u => u.arriveValid f (State.ruleFor f)) hst fun u _ _ => exec_of_validFrame hc hv u

end Sys2Proof.Machine

/-!
The timers of the view (R11, R19, R20, R36, R40, R41, R100): what each expiry asks for.
-/

namespace Sys2Proof.Machine

variable {s : State}

/-! ### The gather timer and the hold limit (R36, R100) -/

/-- R27: under a front at NONE no record blocks. -/
theorem Record.not_blocking_none (r : Record) : r.blocking .none = false := by
  refine Bool.eq_false_iff.2 fun h => ?_
  obtain ⟨-, hrank, -⟩ := (r.blocking_iff .none).1 h
  have hnone : frontValue .none = -1 := rfl
  omega

theorem exec_gatherTimerExpiry (hm : s.stc.station = .member) (hg : s.dvu.gatherTimer.isRunning = true) :
    exec .gatherTimerExpiry s =
      .next (s.setDvu { s.dvu with gatherTimer := .stopped, gatherExpired := true }).evalAdvance :=
  if_pos ⟨s.isMember_iff.2 hm, hg⟩

theorem exec_holdLimitExpiry (hm : s.stc.station = .member) (hl : s.dvu.holdLimit.isRunning = true) :
    exec .holdLimitExpiry s = .next ((s.setDvu { s.dvu with holdLimit := .expired }).request (.hold .resume)) :=
  if_pos ⟨s.isMember_iff.2 hm, hl⟩

/-- R97, R158: with room, an action asked for while none is in flight waits. -/
theorem Txq.hold_mem_request {q : Txq} (hl : q.entries.length < 12) (hf : q.inFlight ≠ some .hold) (a : HoldAction) :
    .hold a ∈ (q.request (.hold a)).1.entries := by
  cases hh : q.holds .hold with
  | false =>
    rw [Txq.request_fresh (.hold a) hl hh]
    simp
  | true =>
    rw [Txq.request_hold_waiting hf hh]
    obtain ⟨x, hx, hk⟩ := List.mem_map.1 ((q.holds_iff .hold).1 hh)
    exact List.mem_map.2 ⟨x, hx, if_pos hk⟩

/-- Settles O12: the gather timer's expiry by the advance condition it makes true, the hold limit's by its request. -/
theorem gatherAndHoldLimitExpiries : Obligations.GatherAndHoldLimitExpiries := by
  refine ⟨fun s hm hg => ?gather, fun s hm hl => ?limit⟩
  case gather =>
    set d : Dvu := { s.dvu with gatherTimer := .stopped, gatherExpired := true } with hd
    refine ⟨_, exec_gatherTimerExpiry hm hg, by simp [hd], fun hfront hclear hno hlen => ?_, fun ⟨i, hi⟩ => ?_, by simp, by simp,
      by simp, by simp, by simp, by simp⟩
    · have hcond : (s.setDvu d).advanceCondition = true := by
        refine (State.advanceCondition_iff _).2 ⟨hm, ?_, hclear, .inr rfl, fun i => ?_, ?_⟩
        · simp [hd, hfront]
        · have hnone : (s.setDvu d).dvu.front = .none := hfront
          rw [hnone]
          exact Record.not_blocking_none _
        · exact (Txq.holds_advance_eq_false_iff _).1 hno
      have hreq := Txq.request_fresh (q := s.txq) (.advance s.dvu.front s.dvu.nextFront) hlen hno
      rw [State.evalAdvance_of_condition hcond]
      refine ⟨(State.request_txq _ _).trans ((congrArg Prod.fst hreq).trans ?_), State.request_qru_room _ hlen⟩
      rw [hfront]
    · have hcond : (s.setDvu d).advanceCondition = false := by
        refine Bool.eq_false_iff.2 fun h => ?_
        obtain ⟨-, -, hclear, -⟩ := (State.advanceCondition_iff _).1 h
        exact absurd ((hclear i).symm.trans hi) (by decide)
      rw [State.evalAdvance_of_no_condition hcond]
      exact ⟨rfl, rfl⟩
  case limit =>
    exact ⟨_, exec_holdLimitExpiry hm hl, by simp, by simp, fun hlen => State.request_qru_room _ hlen,
      fun hlen hf => (State.request_txq _ _).symm ▸ Txq.hold_mem_request hlen hf .resume, by simp, by simp, by simp, by simp,
      by simp, by simp⟩

/-! ### The rank settle timer (R40, R41) -/

theorem exec_rankSettleExpiry (hm : s.stc.station = .member) (hs : s.dvu.settle.isRunning = true)
    (hclear : ∀ i : StationId, s.dvu.holdSet[i] = false) :
    exec .rankSettleExpiry s = .next (s.setDvu (s.dvu.startSettle s.profile)).settleAction :=
  if_pos ⟨s.isMember_iff.2 hm, hs, (holdClear_iff s).2 hclear⟩

theorem State.settleAction_of_none (h : s.dvu.lowestBlocking = none) : s.settleAction = s := by
  rw [State.settleAction, h]

theorem State.settleAction_of_some {b k : Rank} (h : s.dvu.lowestBlocking = some b) (hk : s.dvu.front = .rank k) :
    s.settleAction = if s.stc.straps.lateAct = .low then s.request (.rankTimeout k) else s.raiseLate b := by
  rw [State.settleAction, h, hk]

theorem State.raiseLate_asks (s : State) (b : Rank) :
    (s.raiseLate b).clg = s.clg.appended (recordOf .late (some (scopeOfRewind b)) (some s.self) s.dvu.epoch (some b)
      s.stc.uptime false) ∧
    (s.raiseLate b).txq = (s.txq.request (.fault ⟨.late, scopeOfRewind b, s.rank, b⟩)).1 ∧
    OnlyOwnFollows s (s.raiseLate b) ∧ (s.txq.entries.length < 12 → (s.raiseLate b).qru = s.qru) := by
  set u := s.append .late (some (scopeOfRewind b)) (some s.self) (some b) with hu
  have hraise : s.raiseLate b = u.request (.fault ⟨.late, scopeOfRewind b, s.rank, b⟩) := rfl
  have htxq : u.txq = s.txq := by simp [hu]
  have hqru : u.qru = s.qru := by simp [hu]
  have hfollows : OnlyOwnFollows s u := s.append_follows .late (some (scopeOfRewind b)) (some s.self) (some b) false
  rw [hraise]
  refine ⟨?_, ?_, hfollows.then_same (by simp) (by simp) (by simp), fun hlen => ?_⟩
  · rw [State.request_clg, hu, State.append_clg]
  · rw [State.request_txq, htxq]
  · rw [State.request_qru_room _ (by rw [htxq]; exact hlen), hqru]

/-- Settles O13: the timer started anew, then what the lowest blocking record asks for. -/
theorem settleExpiryActsOnABlockingRecord : Obligations.SettleExpiryActsOnABlockingRecord := by
  intro s k hm hs hclear hk
  have hrunning : (s.dvu.startSettle s.profile).settle = .running (settleInterval s.profile) := by
    simp [Dvu.startSettle, hk, frontIsRank]
  have hnone : s.dvu.lowestBlocking = none → (s.setDvu (s.dvu.startSettle s.profile)).settleAction =
      s.setDvu (s.dvu.startSettle s.profile) :=
    State.settleAction_of_none (s := s.setDvu (s.dvu.startSettle s.profile))
  have hdrop : ∀ b, s.dvu.lowestBlocking = some b → s.stc.straps.lateAct = .low →
      (s.setDvu (s.dvu.startSettle s.profile)).settleAction =
        (s.setDvu (s.dvu.startSettle s.profile)).request (.rankTimeout k) := fun b hb hlow =>
    (State.settleAction_of_some (s := s.setDvu (s.dvu.startSettle s.profile)) hb hk).trans (if_pos hlow)
  have hfault : ∀ b, s.dvu.lowestBlocking = some b → s.stc.straps.lateAct = .high →
      (s.setDvu (s.dvu.startSettle s.profile)).settleAction = (s.setDvu (s.dvu.startSettle s.profile)).raiseLate b :=
    fun b hb hhigh => (State.settleAction_of_some (s := s.setDvu (s.dvu.startSettle s.profile)) hb hk).trans
      (if_neg fun hlow => by simp [hhigh] at hlow)
  refine ⟨_, exec_rankSettleExpiry hm hs hclear, ?domain, by simpa using hrunning, by simp [Dvu.startSettle],
    by simp [Dvu.startSettle], by simp [Dvu.startSettle], fun hno => ?none, fun b hb hlow => ?drop, fun b hb hhigh => ?fault,
    fun hlen => ?room, by simp, by simp, by simp, by simp⟩
  case domain => constructor <;> simp [Dvu.startSettle]
  case none =>
    rw [hnone (s.dvu.lowestBlocking_eq_none_iff.2 hno)]
    exact ⟨rfl, rfl⟩
  case drop =>
    rw [hdrop b hb hlow]
    exact ⟨by simp, State.request_txq _ _, by simp [Dvu.startSettle]⟩
  case fault =>
    obtain ⟨hclg, htxq, hfollows, -⟩ := (s.setDvu (s.dvu.startSettle s.profile)).raiseLate_asks b
    rw [hfault b hb hhigh]
    exact ⟨hclg, htxq, hfollows.of_same rfl rfl⟩
  case room =>
    cases hb : s.dvu.lowestBlocking with
    | none => rw [hnone hb]; rfl
    | some b =>
      cases hact : s.stc.straps.lateAct with
      | low =>
        rw [hdrop b hb hact]
        exact State.request_qru_room _ hlen
      | high =>
        rw [hfault b hb hact]
        exact ((s.setDvu (s.dvu.startSettle s.profile)).raiseLate_asks b).2.2.2 hlen

end Sys2Proof.Machine

/-!
The announce timer (R11, R19, R20, R31, R100, R158): the records aged, and what the expiry asks for, in its order.
-/

namespace Sys2Proof.Machine

variable {s : State}

/-! ### What a state has asked for beside another -/

/-- `v` has in its queue what `u` has, and then `l`; no slot has changed. -/
structure Asked (u v : State) (l : List Entry) : Prop where
  entries : v.txq.entries = u.txq.entries ++ l
  qru     : v.qru = u.qru

theorem Asked.refl (u : State) : Asked u u [] := ⟨(List.append_nil _).symm, rfl⟩

theorem Asked.trans {u v w : State} {l m : List Entry} (h : Asked u v l) (k : Asked v w m) : Asked u w (l ++ m) :=
  ⟨by rw [k.entries, h.entries, List.append_assoc], k.qru.trans h.qru⟩

theorem Asked.of_same {u u' v v' : State} {l : List Entry} (h : Asked u v l) (hu : u.txq = u'.txq) (hq : u.qru = u'.qru)
    (hv : v'.txq = v.txq) (hvq : v'.qru = v.qru) : Asked u' v' l :=
  ⟨by rw [hv, h.entries, hu], by rw [hvq, h.qru, hq]⟩

/-- A key that none of the new entries has is held as before. -/
theorem Asked.holds {u v : State} {l : List Entry} (h : Asked u v l) {k : Key} (hk : ∀ e ∈ l, e.key ≠ k) :
    v.txq.holds k = u.txq.holds k := by
  have hnone : l.any (fun e => e.key == k) = false := List.any_eq_false.2 fun e he => by simpa using hk e he
  rw [Txq.holds, Txq.holds, h.entries, List.any_append, hnone, Bool.or_false]

theorem State.request_asked {e : Entry} (hroom : s.txq.entries.length < 12) (hfresh : s.txq.holds e.key = false) :
    Asked s (s.request e) [e] := by
  refine ⟨?_, State.request_qru_room e hroom⟩
  rw [State.request_txq, Txq.request_fresh e hroom hfresh]

/-! ### The four requests -/

/-- The ANNOUNCE, where none is pending. -/
def State.announceAsk (s : State) : List Entry := if s.txq.holds .announce then [] else [.announce]

/-- R158: an ANNOUNCE asked for while one is pending changes no entry. -/
theorem Txq.request_announce_held {q : Txq} (h : q.holds Entry.announce.key = true) :
    (q.request .announce).1.entries = q.entries ∧ (q.request .announce).2 = none := by
  have hmerge : ∀ x : Entry, (if x.key = Entry.key .announce then x.mergeRequest .announce else x) = x := fun x => by
    cases x <;> rfl
  rw [Txq.request, if_pos h]
  split
  · exact ⟨rfl, rfl⟩
  · exact ⟨(List.map_congr_left fun x _ => hmerge x).trans (List.map_id _), rfl⟩

theorem State.announce_asked (hroom : (s.txq.entries ++ s.announceAsk).length ≤ 12) :
    Asked s (s.request .announce) s.announceAsk := by
  by_cases hh : s.txq.holds .announce = true
  · obtain ⟨hentries, hnone⟩ := Txq.request_announce_held hh
    refine ⟨?_, ?_⟩
    · rw [State.request_txq, hentries, State.announceAsk, if_pos hh, List.append_nil]
    · rw [State.request, hnone]
      rfl
  · rw [State.announceAsk, if_neg hh] at hroom ⊢
    exact State.request_asked (by simpa using hroom) (Bool.eq_false_iff.2 hh)

/-- The lapses due among the stations of a list, in its order, at a queue. -/
def State.lapsesAmong (s : State) (q : Txq) (l : List StationId) : List Entry :=
  (l.filter fun i => s.isSilent i && !q.holds (.memberSilent i)).map .memberSilent

theorem State.lapsesAmong_cons (s : State) (q : Txq) (i : StationId) (l : List StationId) :
    s.lapsesAmong q (i :: l) =
      (if s.isSilent i && !q.holds (.memberSilent i) then [.memberSilent i] else []) ++ s.lapsesAmong q l := by
  unfold State.lapsesAmong
  rw [List.filter_cons]
  split <;> rfl

theorem State.foldl_lapses_asked (s : State) (l : List StationId) (hl : l.Nodup) (t : State)
    (hroom : (t.txq.entries ++ s.lapsesAmong t.txq l).length ≤ 12) :
    Asked t (l.foldl (fun t i => if s.isSilent i && !t.txq.holds (.memberSilent i) then t.request (.memberSilent i) else t) t)
      (s.lapsesAmong t.txq l) := by
  induction l generalizing t with
  | nil => exact Asked.refl t
  | cons i l ih =>
    obtain ⟨hi, hl⟩ := List.nodup_cons.1 hl
    rw [State.lapsesAmong_cons] at hroom ⊢
    rw [List.foldl_cons]
    by_cases hdue : s.isSilent i && !t.txq.holds (.memberSilent i)
    · rw [if_pos hdue] at hroom ⊢
      obtain ⟨-, hfresh⟩ := Bool.and_eq_true_iff.1 hdue
      have hasked : Asked t (t.request (.memberSilent i)) [.memberSilent i] :=
        State.request_asked (by simp at hroom; omega) (Bool.not_eq_eq_eq_not.mp hfresh)
      have hsame : s.lapsesAmong (t.request (.memberSilent i)).txq l = s.lapsesAmong t.txq l := by
        refine congrArg (List.map Entry.memberSilent) (List.filter_congr fun j hj => ?_)
        rw [hasked.holds fun e he => by
          rw [List.mem_singleton.1 he]
          exact fun h => hi (by cases h; exact hj)]
      rw [if_pos hdue]
      have htail := ih hl (t.request (.memberSilent i)) (by
        rw [hsame, hasked.entries, List.append_assoc]
        exact hroom)
      rw [hsame] at htail
      exact hasked.trans htail
    · rw [if_neg hdue] at hroom ⊢
      rw [if_neg hdue]
      exact ih hl t hroom

theorem State.requestLapses_asked (s : State) (hroom : (s.txq.entries ++ s.lapsesAmong s.txq stationIds).length ≤ 12) :
    Asked s s.requestLapses (s.lapsesAmong s.txq stationIds) :=
  s.foldl_lapses_asked stationIds (List.nodup_finRange 32) s hroom

/-- The RESUME of an expired hold limit, where no action is pending. -/
def State.resumeAsk (s : State) : List Entry :=
  if s.dvu.holdLimit = .expired ∧ s.txq.holds .hold = false then [.hold .resume] else []

theorem State.resume_asked (hroom : (s.txq.entries ++ s.resumeAsk).length ≤ 12) :
    Asked s s.reRequestResume s.resumeAsk := by
  unfold State.resumeAsk State.reRequestResume at *
  split
  · next h =>
    rw [if_pos h] at hroom
    exact State.request_asked (by simpa using hroom) h.2
  · exact Asked.refl s

/-- The ADVANCE of a condition that holds. -/
def State.advanceAsk (s : State) : List Entry :=
  if s.advanceCondition then [.advance s.dvu.front s.dvu.nextFront] else []

theorem State.advance_asked (hroom : (s.txq.entries ++ s.advanceAsk).length ≤ 12) : Asked s s.evalAdvance s.advanceAsk := by
  unfold State.advanceAsk at *
  by_cases h : s.advanceCondition = true
  · rw [if_pos h] at hroom ⊢
    rw [State.evalAdvance_of_condition h]
    obtain ⟨-, -, -, -, -, hfresh⟩ := s.advanceCondition_iff.1 h
    exact State.request_asked (by simpa using hroom) ((Txq.holds_advance_eq_false_iff _).2 hfresh)
  · rw [if_neg h, State.evalAdvance_of_no_condition (Bool.eq_false_iff.2 h)]
    exact Asked.refl s

/-! ### The advance condition after an ageing (R29) -/

theorem State.advanceCondition_congr {u v : State} (hstation : u.stc.station = v.stc.station)
    (hfront : u.dvu.front = v.dvu.front) (hhold : u.dvu.holdSet = v.dvu.holdSet) (hgather : u.dvu.gather = v.dvu.gather)
    (hexpired : u.dvu.gatherExpired = v.dvu.gatherExpired)
    (hblocking : ∀ (i : StationId) (f : Front), (u.record i).blocking f = (v.record i).blocking f)
    (hadvance : u.txq.holds .advance = v.txq.holds .advance) : u.advanceCondition = v.advanceCondition := by
  rw [Bool.eq_iff_iff, State.advanceCondition_iff, State.advanceCondition_iff, ← Txq.holds_advance_eq_false_iff,
    ← Txq.holds_advance_eq_false_iff, hstation, hfront, hhold, hgather, hexpired, hadvance]
  simp only [hblocking]

theorem Dvu.nextFront_congr {d e : Dvu} (hfront : d.front = e.front)
    (hrecords : ∀ i : StationId, (d.records[i]).present = (e.records[i]).present ∧ (d.records[i]).rank = (e.records[i]).rank) :
    d.nextFront = e.nextFront := by
  have hheld : ∀ k, d.HeldAbove k ↔ e.HeldAbove k := fun k => by
    unfold Dvu.HeldAbove
    rw [hfront]
    exact exists_congr fun i => by rw [(hrecords i).1, (hrecords i).2]
  have hrank : d.nextRank = e.nextRank := Option.ext fun k => by
    simp only [Dvu.nextRank_eq_some_iff, hheld]
  rw [Dvu.nextFront_eq_nextRank, Dvu.nextFront_eq_nextRank, hrank]

/-- R19: an ageing changes the silence age of a record alone. -/
theorem State.ageRecords_same (s : State) (i : StationId) : s.ageRecords.record i =
    { s.record i with silence := (s.ageRecords.record i).silence } := by
  rw [ageRecords_record]
  split <;> rfl

theorem ageOf_val (n : Fin 5) : (ageOf n).val = min 4 (n.val + 1) := by
  revert n
  decide

/-- R20: a lapse is due for the records that had come to three periods of silence. -/
theorem State.isSilent_aged (s : State) (i : StationId) : s.ageRecords.isSilent i = true ↔
    (s.record i).present = true ∧ i ≠ s.self ∧ 3 ≤ (s.record i).silence.val := by
  have hself : s.ageRecords.self = s.self := by simp [State.self]
  have hpresent : (s.ageRecords.record i).present = (s.record i).present := by rw [State.ageRecords_same]
  simp only [State.isSilent, Bool.and_eq_true, beq_iff_eq, bne_iff_ne, hself, hpresent]
  constructor
  · rintro ⟨⟨hp, hlimit⟩, hi⟩
    rw [ageRecords_record, if_pos ⟨hp, hi⟩, ageOf_val] at hlimit
    have hfour : Config.silenceLimit = 4 := rfl
    exact ⟨hp, hi, by omega⟩
  · rintro ⟨hp, hi, hlong⟩
    rw [ageRecords_record, if_pos ⟨hp, hi⟩, ageOf_val]
    have hfour : Config.silenceLimit = 4 := rfl
    exact ⟨⟨hp, by omega⟩, hi⟩

/-! ### The expiry -/

/-- The announce timer restarted and its ANNOUNCE asked for. -/
def State.announced (s : State) : State :=
  (s.setDvu { s.dvu with announce := .running (announcePeriod s.profile) }).request .announce

/-- The state after an expiry of the announce timer. -/
def State.announceExpired (s : State) : State := s.announced.ageRecords.requestLapses.reRequestResume.evalAdvance

theorem exec_announceTimerExpiry (hm : s.stc.station = .member) (ha : s.dvu.announce.isRunning = true) :
    exec .announceTimerExpiry s = .next s.announceExpired :=
  if_pos ⟨s.isMember_iff.2 hm, ha⟩

/-- The lapses that an expiry asks for. -/
def State.lapseAsk (s : State) : List Entry :=
  ((List.finRange 32).filter fun i => (s.record i).present ∧ i ≠ s.self ∧ 3 ≤ (s.record i).silence.val ∧
    s.txq.holds (.memberSilent i) = false).map .memberSilent

theorem State.announceAsk_key {e : Entry} (h : e ∈ s.announceAsk) : e = .announce := by
  unfold State.announceAsk at h
  split at h
  · cases h
  · exact List.mem_singleton.1 h

theorem State.lapseAsk_key {e : Entry} (h : e ∈ s.lapseAsk) : ∃ i, e = .memberSilent i := by
  obtain ⟨i, -, hi⟩ := List.mem_map.1 h
  exact ⟨i, hi.symm⟩

theorem State.resumeAsk_key {e : Entry} (h : e ∈ s.resumeAsk) : e = .hold .resume := by
  unfold State.resumeAsk at h
  split at h
  · exact List.mem_singleton.1 h
  · cases h

theorem State.announced_record (s : State) (i : StationId) : s.announced.record i = s.record i := by
  simp [State.announced, State.record]

/-- Neither the timer nor the ages enter the advance condition and its new front. -/
theorem State.advanceAsk_aged {u : State} (hdvu : u.dvu = s.announced.ageRecords.dvu) (hstc : u.stc = s.stc)
    (hadvance : u.txq.holds .advance = s.txq.holds .advance) : u.advanceAsk = s.advanceAsk := by
  have hrecord : ∀ i : StationId, u.record i = { s.record i with silence := (u.record i).silence } := fun i => by
    have h := s.announced.ageRecords_same i
    rw [State.announced_record] at h
    simpa [State.record, hdvu] using h
  have hfront : u.dvu.front = s.dvu.front := by simp [hdvu, State.announced]
  have hcondition : u.advanceCondition = s.advanceCondition :=
    State.advanceCondition_congr (by rw [hstc]) hfront (by simp [hdvu, State.announced]) (by simp [hdvu, State.announced])
      (by simp [hdvu, State.announced]) (fun i f => by rw [hrecord]; rfl) hadvance
  have hnext : u.dvu.nextFront = s.dvu.nextFront :=
    Dvu.nextFront_congr hfront fun i =>
      ⟨show (u.record i).present = (s.record i).present by rw [hrecord],
        show (u.record i).rank = (s.record i).rank by rw [hrecord]⟩
  rw [State.advanceAsk, State.advanceAsk, hcondition, hfront, hnext]

/-- R20, R31, R100, R158: with room for all that the expiry may ask for, it asks for it in this order. -/
theorem State.announceExpired_asked
    (hroom : (s.txq.entries ++ (s.announceAsk ++ s.lapseAsk ++ s.resumeAsk ++ s.advanceAsk)).length ≤ 12) :
    Asked s s.announceExpired (s.announceAsk ++ s.lapseAsk ++ s.resumeAsk ++ s.advanceAsk) := by
  simp only [List.length_append] at hroom
  have h1 : Asked s s.announced.ageRecords s.announceAsk :=
    (State.announce_asked (s := s.setDvu { s.dvu with announce := .running (announcePeriod s.profile) })
      (by show (s.txq.entries ++ s.announceAsk).length ≤ 12; rw [List.length_append]; omega)).of_same rfl rfl
      (State.ageRecords_txq s.announced) (State.ageRecords_qru s.announced)
  have hlapses : s.announced.ageRecords.lapsesAmong s.announced.ageRecords.txq stationIds = s.lapseAsk := by
    refine congrArg (List.map Entry.memberSilent) (List.filter_congr fun i _ => ?_)
    rw [h1.holds fun e he => by rw [State.announceAsk_key he]; exact nofun, Bool.eq_iff_iff, Bool.and_eq_true,
      State.isSilent_aged, decide_eq_true_iff]
    simp [State.announced, State.record, State.self, and_assoc]
  have h2 : Asked s.announced.ageRecords s.announced.ageRecords.requestLapses s.lapseAsk := by
    have h := State.requestLapses_asked (s := s.announced.ageRecords) (by
      rw [hlapses, h1.entries, List.length_append, List.length_append]; omega)
    rwa [hlapses] at h
  have h12 := h1.trans h2
  have hresume : s.announced.ageRecords.requestLapses.resumeAsk = s.resumeAsk := by
    unfold State.resumeAsk
    rw [h12.holds fun e he => ?_]
    · simp [State.announced]
    · rcases List.mem_append.1 he with he | he
      · rw [State.announceAsk_key he]
        decide
      · obtain ⟨i, rfl⟩ := State.lapseAsk_key he
        exact nofun
  have h3 : Asked s.announced.ageRecords.requestLapses s.announced.ageRecords.requestLapses.reRequestResume s.resumeAsk := by
    have h := State.resume_asked (s := s.announced.ageRecords.requestLapses) (by
      rw [hresume, h12.entries, List.length_append, List.length_append, List.length_append]; omega)
    rwa [hresume] at h
  have h123 := h12.trans h3
  have hadvance : s.announced.ageRecords.requestLapses.reRequestResume.advanceAsk = s.advanceAsk := by
    have hkey : ∀ e ∈ s.announceAsk ++ s.lapseAsk ++ s.resumeAsk, e.key ≠ .advance := fun e he => by
      rcases List.mem_append.1 he with he | he
      · rcases List.mem_append.1 he with he | he
        · rw [State.announceAsk_key he]
          exact nofun
        · obtain ⟨i, rfl⟩ := State.lapseAsk_key he
          exact nofun
      · rw [State.resumeAsk_key he]
        exact nofun
    have hdvu : s.announced.ageRecords.requestLapses.reRequestResume.dvu = s.announced.ageRecords.dvu := by simp
    exact State.advanceAsk_aged hdvu (by simp [State.announced]) (h123.holds hkey)
  have h4 : Asked s.announced.ageRecords.requestLapses.reRequestResume s.announceExpired s.advanceAsk := by
    have h := State.advance_asked (s := s.announced.ageRecords.requestLapses.reRequestResume) (by
      rw [hadvance, h123.entries, List.length_append, List.length_append, List.length_append, List.length_append]; omega)
    rwa [hadvance] at h
  exact h123.trans h4

theorem State.announceExpired_dvu (s : State) : s.announceExpired.dvu = s.announced.ageRecords.dvu := by
  simp [State.announceExpired]

theorem State.announceExpired_record (s : State) (i : StationId) : s.announceExpired.record i =
    if (s.record i).present = true ∧ i ≠ s.self then { s.record i with silence := ageOf (s.record i).silence }
    else s.record i := by
  have hrecord : s.announceExpired.record i = s.announced.ageRecords.record i := by
    rw [State.record, State.announceExpired_dvu]
    rfl
  have hself : s.announced.self = s.self := by simp [State.announced, State.self]
  rw [hrecord, ageRecords_record, State.announced_record, hself]

/-- An ANNOUNCE is pending once one has been asked for. -/
theorem State.announce_mem_ask (s : State) : .announce ∈ s.txq.entries ++ s.announceAsk := by
  unfold State.announceAsk
  split
  · next h =>
    obtain ⟨x, hx, hk⟩ := List.mem_map.1 ((s.txq.holds_iff .announce).1 h)
    exact List.mem_append_left _ (Entry.eq_announce hk ▸ hx)
  · simp

/-- With at most one silent member a queue of eight has room for all that the expiry asks for. -/
theorem State.asks_fit (hlen : s.txq.entries.length ≤ 8) (hone : s.lapseAsk.length ≤ 1) :
    (s.txq.entries ++ (s.announceAsk ++ s.lapseAsk ++ s.resumeAsk ++ s.advanceAsk)).length ≤ 12 := by
  have hannounce : s.announceAsk.length ≤ 1 := by unfold State.announceAsk; split <;> simp
  have hresume : s.resumeAsk.length ≤ 1 := by unfold State.resumeAsk; split <;> simp
  have hadvance : s.advanceAsk.length ≤ 1 := by unfold State.advanceAsk; split <;> simp
  simp only [List.length_append]
  omega

theorem List.length_le_one_of_forall_eq {α : Type} {l : List α} (hl : l.Nodup) (h : ∀ x ∈ l, ∀ y ∈ l, x = y) : l.length ≤ 1 := by
  match l, hl, h with
  | [], _, _ => simp
  | [_], _, _ => simp
  | x :: y :: l, hl, h =>
    exact absurd (h x (by simp) y (by simp)) fun hxy => (List.nodup_cons.1 hl).1 (by simp [hxy])

theorem State.lapseAsk_length (hone : ∀ i j : StationId, i ≠ s.self → j ≠ s.self → (s.record i).present = true →
      (s.record j).present = true → 3 ≤ (s.record i).silence.val → 3 ≤ (s.record j).silence.val → i = j) :
    s.lapseAsk.length ≤ 1 := by
  rw [State.lapseAsk, List.length_map]
  refine List.length_le_one_of_forall_eq ((List.nodup_finRange 32).filter _) fun i hi j hj => ?_
  simp only [List.mem_filter, List.mem_finRange, true_and, decide_eq_true_eq] at hi hj
  exact hone i j hi.2.1 hj.2.1 hi.1 hj.1 hi.2.2.1 hj.2.2.1

theorem Entry.eq_memberSilent {e : Entry} {i : StationId} (h : e.key = .memberSilent i) : e = .memberSilent i := by
  cases e with
  | memberSilent j => exact congrArg Entry.memberSilent (Key.memberSilent.inj h)
  | _ => cases h

/-- A lapse that the expiry asks for names a silent member. -/
theorem State.silent_of_lapse_asked {j : StationId}
    (h : .memberSilent j ∈ s.announceAsk ++ s.lapseAsk ++ s.resumeAsk ++ s.advanceAsk) :
    (s.record j).present = true ∧ j ≠ s.self ∧ 3 ≤ (s.record j).silence.val := by
  have hlapse : .memberSilent j ∈ s.lapseAsk := by
    simp only [List.mem_append] at h
    rcases h with ((h | h) | h) | h
    · cases State.announceAsk_key h
    · exact h
    · cases State.resumeAsk_key h
    · unfold State.advanceAsk at h
      split at h <;> simp at h
  rw [State.lapseAsk] at hlapse
  simp only [List.mem_map, List.mem_filter, List.mem_finRange, true_and, decide_eq_true_eq, Entry.memberSilent.injEq,
    exists_eq_right] at hlapse
  exact ⟨hlapse.1, hlapse.2.1, hlapse.2.2.1⟩

/-- Settles O11: the records aged, and the requests in their order; the room of the other two clauses is the list's. -/
theorem announceExpiryAgesAndLapses : Obligations.AnnounceExpiryAgesAndLapses := by
  refine ⟨fun s hm ha => ?aged, fun s t i hm ha hlen hi hp hlong hone hexec => ?lapse, fun s l hm ha hl hroom => ?list⟩
  case aged =>
    refine ⟨_, exec_announceTimerExpiry hm ha, by simp [State.announceExpired_dvu, State.announced],
      fun i hi hp => ?others, fun i hp => ?absent, ?own, ?domain, by simp [State.announceExpired_dvu, State.announced],
      by simp [State.announceExpired_dvu, State.announced], by simp [State.announceExpired_dvu, State.announced],
      fun hlen hone => ?asked, by simp [State.announceExpired, State.announced], by simp [State.announceExpired, State.announced],
      by simp [State.announceExpired, State.announced], by simp [State.announceExpired, State.announced],
      by simp [State.announceExpired, State.announced], by simp [State.announceExpired, State.announced]⟩
    case others =>
      rw [State.announceExpired_record, if_pos ⟨hp, hi⟩]
      exact ⟨ageOf_val _, rfl⟩
    case absent => rw [State.announceExpired_record, if_neg (by simp [hp])]
    case own => rw [State.announceExpired_record, if_neg (by simp)]
    case domain => constructor <;> simp [State.announceExpired_dvu, State.announced]
    case asked =>
      have hasked := State.announceExpired_asked (State.asks_fit hlen (State.lapseAsk_length hone))
      refine ⟨?_, hasked.qru, fun e he => ?_⟩
      · rw [hasked.entries, List.append_assoc, List.append_assoc, ← List.append_assoc]
        exact List.mem_append_left _ s.announce_mem_ask
      · rw [hasked.entries]
        exact List.mem_map_of_mem (List.mem_append_left _ he)
  case lapse =>
    have hlapses : s.lapseAsk.length ≤ 1 := State.lapseAsk_length fun j k hj hk hpj hpk hlj hlk =>
      (hone j hj hpj hlj).trans (hone k hk hpk hlk).symm
    have hasked := State.announceExpired_asked (State.asks_fit hlen hlapses)
    rw [exec_announceTimerExpiry hm ha] at hexec
    cases hexec
    rw [hasked.entries]
    refine ⟨?_, fun j hj hmem => ?_⟩
    · cases hheld : s.txq.holds (.memberSilent i) with
      | true =>
        obtain ⟨x, hx, hk⟩ := List.mem_map.1 ((s.txq.holds_iff _).1 hheld)
        exact List.mem_append_left _ (Entry.eq_memberSilent hk ▸ hx)
      | false => exact List.mem_append_right _ (by simp [State.lapseAsk, hp, hi, hlong, hheld])
    · rcases List.mem_append.1 hmem with hmem | hmem
      · exact hmem
      · refine absurd (State.silent_of_lapse_asked hmem) fun ⟨hp', hi', hlong'⟩ => hj (hone j hi' hp' hlong')
  case list =>
    have hl' : l = s.txq.entries ++ (s.announceAsk ++ s.lapseAsk ++ s.resumeAsk ++ s.advanceAsk) := by
      simp only [hl, ← List.append_assoc]
      rfl
    have hasked := State.announceExpired_asked (hl' ▸ hroom)
    exact ⟨_, exec_announceTimerExpiry hm ha, hasked.entries.trans hl'.symm, hasked.qru⟩

end Sys2Proof.Machine

/-!
The step on an empty queue (R40, R115, R143 to R155): what is due.
-/

namespace Sys2Proof.Machine

variable {s : State}

/-! ### Conditions and their commands -/

theorem mem_flatMap_dueIf {l : List (Bool × Instr)} {c : Instr} :
    c ∈ l.flatMap (fun p => dueIf p.1 p.2) ↔ (true, c) ∈ l := by
  rw [List.mem_flatMap]
  constructor
  · rintro ⟨⟨b, i⟩, hp, hc⟩
    cases b with
    | true => exact List.mem_singleton.1 hc ▸ hp
    | false => cases hc
  · exact fun h => ⟨_, h, List.mem_singleton_self c⟩

theorem flatMap_dueIf_sublist (l : List (Bool × Instr)) :
    (l.flatMap (fun p => dueIf p.1 p.2)).Sublist (l.map Prod.snd) := by
  induction l with
  | nil => exact List.Sublist.refl _
  | cons p l ih =>
    obtain ⟨b, i⟩ := p
    cases b with
    | true => exact ih.cons_cons i
    | false => exact ih.cons i

/-! ### What is due, and in what order -/

/-- The conditions of the idle step, each with the command that it makes due, in the order in which they are queued. -/
def State.dueTable (s : State) : List (Bool × Instr) :=
  [(s.lif.lineDominant && s.lif.runClass == .ordinary && decide (Config.longHalves < s.lif.runLength), .longRunStart),
    (s.lif.lineDominant && s.lif.runClass != .stuck && decide (Config.stuckHalves ≤ s.lif.runLength), .stuckLine),
    (s.lif.breakDue, .breakDriveEnd), (s.lif.collisionDue, .collisionAfterArbitration),
    (s.stc.listenIn.isDue, .listenInExpiry), (s.stc.quiet.isDue, .quietTimerExpiry),
    (s.dvu.announce.isDue, .announceTimerExpiry), (s.dvu.gatherTimer.isDue, .gatherTimerExpiry),
    (s.dvu.settle.isDue && s.holdClear, .rankSettleExpiry), (s.dvu.holdLimit.isDue, .holdLimitExpiry),
    (s.bsu.holdDown.isDue, .holdDownExpiry), (s.bsu.recovery.isDue, .recoveryExpiry),
    (s.bsu.watchdog.isDue, .watchdogExpiry), (s.bsu.stable.isDue, .stableIntervalExpiry),
    ((s.qru.slots[(0 : SlotIx)]).timer.isDue, .queryTimerExpiry 0), ((s.qru.slots[(1 : SlotIx)]).timer.isDue, .queryTimerExpiry 1),
    ((s.qru.slots[(2 : SlotIx)]).timer.isDue, .queryTimerExpiry 2), ((s.qru.slots[(3 : SlotIx)]).timer.isDue, .queryTimerExpiry 3),
    (s.offered.isSome && s.lif.mayBegin, .attemptStart)]

theorem State.due_of_start (h : s.stc.station = .start) : s.due = [] := if_pos h

theorem State.due_eq (h : s.stc.station ≠ .start) : s.due = s.dueTable.flatMap (fun p => dueIf p.1 p.2) := by
  rw [State.due, if_neg h]
  simp only [State.lineDue, State.timersDue, State.dueTable, slotIxs, List.flatMap_cons, List.flatMap_nil, List.append_assoc,
    List.append_nil]

theorem State.mem_due (h : s.stc.station ≠ .start) {c : Instr} : c ∈ s.due ↔ (true, c) ∈ s.dueTable := by
  rw [State.due_eq h, mem_flatMap_dueIf]

/-- The commands that may be due. -/
def dueCommands : List Instr :=
  [.longRunStart, .stuckLine, .breakDriveEnd, .collisionAfterArbitration, .listenInExpiry, .quietTimerExpiry,
    .announceTimerExpiry, .gatherTimerExpiry, .rankSettleExpiry, .holdLimitExpiry, .holdDownExpiry, .recoveryExpiry,
    .watchdogExpiry, .stableIntervalExpiry, .queryTimerExpiry 0, .queryTimerExpiry 1, .queryTimerExpiry 2,
    .queryTimerExpiry 3, .attemptStart]

theorem State.due_sublist (s : State) : s.due.Sublist dueCommands := by
  by_cases h : s.stc.station = .start
  · rw [State.due_of_start h]
    exact List.nil_sublist _
  · rw [State.due_eq h]
    exact flatMap_dueIf_sublist s.dueTable

theorem State.due_nodup (s : State) : s.due.Nodup :=
  s.due_sublist.nodup (by decide)

/-! ### The conditions -/

theorem Timer.isDue_iff : ∀ t : Timer, t.isDue = true ↔ t = .running 0
  | .stopped | .running 0 | .running (_ + 1) => by simp [Timer.isDue]

theorem LatchingTimer.isDue_iff : ∀ t : LatchingTimer, t.isDue = true ↔ t = .running 0
  | .stopped | .expired | .running 0 | .running (_ + 1) => by simp [LatchingTimer.isDue]

theorem Watchdog.isDue_iff : ∀ w : Watchdog, w.isDue = true ↔ w = .first 0 ∨ w = .running 0
  | .disarmed | .first 0 | .first (_ + 1) | .running 0 | .running (_ + 1) => by simp [Watchdog.isDue]

theorem step_of_due (hp : s.pending = []) (hd : s.due ≠ []) : step s = .next { s with pending := s.due } := by
  have hne : s.due.isEmpty = false := by simpa using hd
  rw [step, hp]
  show Host.Outcome.next s.idle = _
  rw [State.idle, hne]
  rfl

theorem State.queryTimer_due (h : s.stc.station ≠ .start) (i : SlotIx) :
    .queryTimerExpiry i ∈ s.due ↔ (s.qru.slots[i]).timer = .running 0 := by
  rw [State.mem_due h, ← Timer.isDue_iff]
  have hcases : i = 0 ∨ i = 1 ∨ i = 2 ∨ i = 3 := by revert i; decide
  rcases hcases with rfl | rfl | rfl | rfl
  all_goals simp only [State.dueTable, List.mem_cons, Prod.mk.injEq, reduceCtorEq, Instr.queryTimerExpiry.injEq, Fin.isValue,
    Fin.reduceEq, and_false, and_true, false_or, or_false, List.not_mem_nil, eq_comm (a := true)]

theorem dueCommands_cases : ∀ c ∈ dueCommands, c ∈ [Instr.announceTimerExpiry, .gatherTimerExpiry, .rankSettleExpiry,
      .holdLimitExpiry, .listenInExpiry, .quietTimerExpiry, .holdDownExpiry, .recoveryExpiry, .watchdogExpiry,
      .stableIntervalExpiry, .longRunStart, .stuckLine, .breakDriveEnd, .collisionAfterArbitration, .attemptStart] ∨
    ∃ i, c = .queryTimerExpiry i := by
  decide

/-- Settles O3: each command is due exactly under the condition beside which the table lists it. -/
theorem idleStepQueuesWhatIsDue : Obligations.IdleStepQueuesWhatIsDue := by
  intro s hp
  refine ⟨step_of_due hp, State.due_of_start, s.due_nodup, fun c hc => dueCommands_cases c (s.due_sublist.subset hc), fun h =>
    ⟨?announce, ?gather, ?settle, ?holdLimit, ?listenIn, ?quiet, ?holdDown, ?recovery, ?watchdog, ?stable,
      State.queryTimer_due h, ?long, ?stuck, ?breakEnd, ?collision, ?attempt⟩⟩
  all_goals
    rw [State.mem_due h]
    simp only [State.dueTable, List.mem_cons, Prod.mk.injEq, reduceCtorEq, and_false, and_true, false_or, or_false,
      List.not_mem_nil, eq_comm (a := true)]
  case announce | gather | listenIn | quiet | recovery | stable => exact Timer.isDue_iff _
  case holdLimit | holdDown => exact LatchingTimer.isDue_iff _
  case watchdog => exact Watchdog.isDue_iff _
  case settle => rw [Bool.and_eq_true, Timer.isDue_iff, holdClear_iff]
  case long =>
    simp only [Bool.and_eq_true, beq_iff_eq, decide_eq_true_iff, and_assoc]
    exact Iff.rfl
  case stuck =>
    simp only [Bool.and_eq_true, bne_iff_ne, decide_eq_true_iff, and_assoc]
    exact Iff.rfl
  case breakEnd => exact s.lif.breakDue_iff
  case collision => exact s.lif.collisionDue_iff
  case attempt => rw [Bool.and_eq_true, Lif.mayBegin_iff]

end Sys2Proof.Machine

/-!
Time (R115, R140 to R153): half a bit time of the driver and of the receiver, and a millisecond of the timers.
-/

namespace Sys2Proof.Machine

variable {s : State}

/-! ### The driver (R145, R147, R149, R153) -/

/-- The comparison at the middle of a bit, by the bit that is sent. -/
theorem readback_eq (f : Frame) {n : Nat} (hn : n % 2 = 0) (dominant : Bool) : readback f (n + 1) dominant =
    match (lineBits f)[n / 2]? with
    | none => .agrees
    | some true => if dominant then .agrees else .fault
    | some false => if dominant then if n / 2 < 10 then .lost else .mismatch else .agrees := by
  have hbit : (n + 1) / 2 = n / 2 := by omega
  have hlow := lineBits_drivesLow f (n + 1)
  rw [hbit] at hlow
  rw [readback]
  simp only [hbit, hlow]
  cases h : (lineBits f)[n / 2]? with
  | none =>
    rw [List.getElem?_eq_none_iff, lineBits_length] at h
    exact if_pos h
  | some b =>
    obtain ⟨hlt, -⟩ := List.getElem?_eq_some_iff.1 h
    rw [lineBits_length] at hlt
    rw [if_neg (by omega)]
    cases b <;> rfl

theorem Drive.compare_between (f : Frame) {n : Nat} (hn : n % 2 = 1) (dominant : Bool) :
    (Drive.frame f n).compare dominant = .agrees :=
  if_neg (by omega)

theorem Drive.compare_middle (f : Frame) {n : Nat} (hn : n % 2 = 0) (dominant : Bool) :
    (Drive.frame f n).compare dominant = readback f (n + 1) dominant :=
  if_pos hn

theorem driverTicked (l : Lif) : DriverTicked l l.tick.drive l.tick.mismatch
    ((l.drive.compare l.lineDominant == .lost) = true) ((l.drive.compare l.lineDominant == .fault) = true) := by
  have hdrive : l.tick.drive = l.drive.tick (l.drive.compare l.lineDominant) := rfl
  have hmismatch : l.tick.mismatch = (l.mismatch || l.drive.compare l.lineDominant == .mismatch) := rfl
  rw [hdrive, hmismatch]
  constructor
  case none =>
    intro h
    simp [h, Drive.compare, Drive.tick]
  case brk =>
    intro n h
    by_cases hf : n % 2 = 0 ∧ l.lineDominant = false <;> simp [h, Drive.compare, Drive.tick, hf]
  case between =>
    intro f n h hn
    simp [h, Drive.compare_between f hn, Drive.tick]
  case dominant =>
    intro f n h hn hbit
    cases hd : l.lineDominant <;> simp [h, Drive.compare_middle f hn, readback_eq f hn, hbit, Drive.tick]
  case recessive =>
    intro f n h hn hbit
    by_cases hfirst : n / 2 < 10 <;>
      cases hd : l.lineDominant <;> simp [h, Drive.compare_middle f hn, readback_eq f hn, hbit, Drive.tick, hfirst]
  case past =>
    intro f n h hn hbit
    simp [h, Drive.compare_middle f hn, readback_eq f hn, hbit, Drive.tick]

/-! ### The receiver (R141, R150) -/

theorem classOfChar (c : Byte) : (c.extractLsb' 5 3).toNat = c.toNat / 32 := by
  rw [BitVec.extractLsb'_toNat, Nat.shiftRight_eq_div_pow]
  have hlt := c.isLt
  omega

theorem charsComplete_cons (first : Byte) (rest : List Byte) :
    charsComplete (first :: rest) = decide (frameLength (first.toNat / 32) ≤ (first :: rest).length) := by
  rw [charsComplete, classOfChar]

theorem completed_error {chars : List Byte} {k : RxError} (h : receiveFrame chars = .error k) :
    (completed chars).command = .receptionError k := by
  rw [completed, h]
  rfl

theorem completed_frame {chars : List Byte} {f : Frame} (h : receiveFrame chars = .ok f) :
    (completed chars).command.frame? = some f := by
  rw [completed, h]
  obtain ⟨sender, epoch, body⟩ := f
  cases body with
  | hold a => cases a <;> rfl
  | _ => rfl

theorem Reception.truncated_command (r : Reception) :
    r.truncated.map RxEvent.command = if 4 ≤ r.wait then some .truncation else none := by
  unfold Reception.truncated
  have hfour : Config.truncationHalves = 4 := rfl
  rw [hfour]
  split <;> rfl

/-- What half a bit time makes of a frame in reception, at a sample and between two. -/
theorem Reception.tick_eq {r : Reception} {p : Nat} (hp : r.phase = some p) (dominant : Bool) : r.tick dominant =
    if p % 2 = 0 then { r with phase := some (p + 1), wait := r.wait + 1 }.sample (p / 2) dominant
    else (.inFrame { r with phase := some (p + 1), wait := r.wait + 1 }, none) := by
  rw [Reception.tick]
  simp only [hp]

theorem receiverTicked (l : Lif) :
    ReceiverTicked l l.tick.receive ((l.receive.tick l.lineDominant).2.map RxEvent.command) := by
  have hreceive : l.tick.receive = (l.receive.tick l.lineDominant).1 := rfl
  have hframe : ∀ r, l.receive = .inFrame r → l.receive.tick l.lineDominant = r.tick l.lineDominant := fun r h => by
    rw [h]
    rfl
  rw [hreceive]
  constructor
  case outside =>
    intro h
    rw [h]
    exact ⟨rfl, rfl⟩
  case gap =>
    intro r h hp
    have htick : r.tick l.lineDominant = (.inFrame { r with wait := r.wait + 1 }, { r with wait := r.wait + 1 }.truncated) := by
      rw [Reception.tick]
      simp only [hp]
    rw [hframe r h, htick]
    exact ⟨rfl, Reception.truncated_command _⟩
  case between =>
    intro r p h hp hodd
    rw [hframe r h, Reception.tick_eq hp, if_neg (by omega)]
    exact ⟨rfl, rfl⟩
  case start =>
    intro r h hp
    rw [hframe r h, Reception.tick_eq hp, if_pos rfl]
    refine ⟨fun hd => ?_, fun hd hnil => ?_, fun hd hsome => ?_⟩
    · rw [hd]
      exact ⟨rfl, rfl⟩
    · simp [Reception.sample, hd, hnil]
    · simp [Reception.sample, hd, hsome, Reception.truncated_command]
  case data =>
    intro r p h hp heven h1 h8
    rw [hframe r h, Reception.tick_eq hp, if_pos heven, Reception.sample, if_neg (by omega), if_neg (by omega)]
    exact ⟨rfl, rfl⟩
  case framing =>
    intro r h hp hd
    rw [hframe r h, Reception.tick_eq hp, if_pos rfl, hd]
    exact ⟨rfl, rfl⟩
  case char =>
    intro r h hp hd
    rw [hframe r h, Reception.tick_eq hp, if_pos rfl, hd]
    refine ⟨rfl, fun first rest hchars => ?_⟩
    have htaken : (Reception.sample { r with phase := some (18 + 1), wait := r.wait + 1 } (18 / 2) false).2 =
        if charsComplete (r.chars ++ [r.shift]) then some (completed (r.chars ++ [r.shift])) else none := rfl
    rw [htaken, hchars, charsComplete_cons]
    refine ⟨fun hshort => ?_, fun hwhole => ⟨fun k hk => ?_, fun f hf => ?_⟩⟩
    · rw [if_neg (by simpa using hshort)]
      rfl
    · rw [if_pos (by simpa using hwhole), Option.map_some, completed_error hk]
    · rw [if_pos (by simpa using hwhole), Option.map_some]
      exact ⟨_, rfl, completed_frame hf⟩

end Sys2Proof.Machine

/-!
Time passed on an empty queue (R113, R115, R140 to R153).
-/

namespace Sys2Proof.Machine

variable {s : State}

/-! ### Timers (R115) -/

theorem timerTicked : ∀ t : Timer, TimerTicked t t.tick
  | .stopped => ⟨fun _ => rfl, nofun⟩
  | .running _ => ⟨nofun, fun _ h => by cases h; rfl⟩

theorem latchingTicked : ∀ t : LatchingTimer, LatchingTicked t t.tick
  | .stopped => ⟨fun _ => rfl, nofun, nofun⟩
  | .expired => ⟨nofun, fun _ => rfl, nofun⟩
  | .running _ => ⟨nofun, nofun, fun _ h => by cases h; rfl⟩

theorem watchdogTicked : ∀ w : Watchdog, WatchdogTicked w w.tick
  | .disarmed => ⟨fun _ => rfl, nofun, nofun⟩
  | .first _ => ⟨nofun, fun _ h => by cases h; rfl, nofun⟩
  | .running _ => ⟨nofun, nofun, fun _ h => by cases h; rfl⟩

theorem State.tickMs_slot (s : State) (i : SlotIx) : s.tickMs.qru.slots[i] = (s.qru.slots[i]).tick :=
  mapTable_fin _ _ _

/-- R40: the rank settle timer runs while no station holds, and is paused while one does. -/
theorem Dvu.tick_settle (d : Dvu) : ((∀ i : StationId, d.holdSet[i] = false) → d.tick.settle = d.settle.tick) ∧
    ((∃ i : StationId, d.holdSet[i] = true) → d.tick.settle = d.settle) := by
  refine ⟨fun h => if_pos ((holdEmpty_iff _).2 h), fun ⟨i, hi⟩ => if_neg fun h => ?_⟩
  exact absurd (((holdEmpty_iff _).1 h i).symm.trans hi) (by decide)

/-- R115: a millisecond, of a state that has the clocks and the blocks of `s`. -/
theorem millisecondPassed {u : State} (hstc : u.stc = { s.stc with msPhase := 0 }) (hdvu : u.dvu = s.dvu)
    (hbsu : u.bsu = s.bsu) (hqru : u.qru = s.qru) : MillisecondPassed s u.tickMs := by
  have hstation : u.tickMs.stc = { s.stc with
      uptime := s.stc.uptime + 1, msPhase := 0, startUpDelay := s.stc.startUpDelay.tick, listenIn := s.stc.listenIn.tick
      quiet := s.stc.quiet.tick } := by
    simp [State.tickMs, hstc]
  have hview : u.tickMs.dvu = s.dvu.tick := by simp [State.tickMs, hdvu]
  have hboard : u.tickMs.bsu = s.bsu.tick := by simp [State.tickMs, hbsu]
  have hslot : ∀ i : SlotIx, u.tickMs.qru.slots[i] = (s.qru.slots[i]).tick := fun i => by rw [State.tickMs_slot, hqru]
  obtain ⟨hruns, hpaused⟩ := s.dvu.tick_settle
  constructor
  case station => rw [hstation]
  case life =>
    rw [hstation]
    exact ⟨timerTicked _, timerTicked _, timerTicked _⟩
  case view =>
    rw [hview]
    exact ⟨timerTicked _, timerTicked _, latchingTicked _⟩
  case settle =>
    intro hclear
    rw [hview, hruns hclear]
    exact timerTicked _
  case paused =>
    intro hholder
    rw [hview, hpaused hholder]
  case domain =>
    rw [hview]
    exact ⟨⟨rfl, rfl, rfl, rfl, rfl, rfl⟩, rfl⟩
  case board =>
    rw [hboard]
    exact ⟨latchingTicked _, timerTicked _, watchdogTicked _, timerTicked _⟩
  case boardRest =>
    rw [hboard]
    rfl
  case slots =>
    intro i
    rw [hslot]
    exact ⟨timerTicked _, rfl⟩
  case fault =>
    rw [← hqru]
    rfl

/-! ### Half a bit time (R141, R143, R145, R152) -/

theorem halfBitPassed {t : State} (hlif : t.lif = s.lif.tick) (hpending : t.pending = s.lif.sampled) : HalfBitPassed s t := by
  constructor
  case idle =>
    rw [hlif]
    simp only [Lif.tick, Bool.or_eq_true, bne_iff_ne]
  case run =>
    rw [hlif]
    rfl
  case same =>
    rw [hlif]
    exact ⟨rfl, rfl, rfl, rfl, rfl, rfl, rfl⟩
  case samples =>
    refine ⟨_, _, _, hlif ▸ driverTicked s.lif, hlif ▸ receiverTicked s.lif, ?_⟩
    rw [hpending, Lif.sampled]
    cases s.lif.drive.compare s.lif.lineDominant <;> rfl

/-! ### The idle step -/

theorem step_of_idle (hp : s.pending = []) (hd : s.due = []) : step s = .next s.passTime := by
  rw [step, hp]
  show Host.Outcome.next s.idle = _
  rw [State.idle, hd]
  rfl

theorem State.passTime_of_start (h : s.stc.station = .start) :
    s.passTime = if s.stc.porApplied || s.stc.srstApplied then s else s.tickMs :=
  if_pos h

/-- The half bit time before the millisecond is looked at. -/
def State.halfTicked (s : State) (phase : Nat) : State :=
  ((s.setLif s.lif.tick).setPending s.lif.sampled).setStc { s.stc with msPhase := phase }

theorem State.passTime_within (h : s.stc.station ≠ .start) (hms : s.stc.msPhase + 1 < halvesPerMs s.stc.straps.lrate) :
    s.passTime = s.halfTicked (s.stc.msPhase + 1) := by
  rw [State.passTime, if_neg h, State.tickHalf, if_pos hms]
  rfl

theorem State.passTime_completing (h : s.stc.station ≠ .start) (hms : halvesPerMs s.stc.straps.lrate ≤ s.stc.msPhase + 1) :
    s.passTime = (s.halfTicked 0).tickMs := by
  rw [State.passTime, if_neg h, State.tickHalf, if_neg (by omega)]
  rfl

/-- Settles O4: the half bit time of the line, the millisecond that it may complete, and the time of START. -/
theorem idleStepPassesTime : Obligations.IdleStepPassesTime := by
  refine ⟨fun s hp hd hs => ?outside, fun s hp hs => ⟨fun happlied => ?applied, fun hpor hsrst => ?start⟩⟩
  case outside =>
    rcases lt_or_ge (s.stc.msPhase + 1) (halvesPerMs s.stc.straps.lrate) with hms | hms
    · refine ⟨_, step_of_idle hp hd, ?_⟩
      rw [State.passTime_within hs hms]
      exact ⟨halfBitPassed rfl rfl, rfl, rfl, rfl, fun _ => ⟨rfl, rfl, rfl, rfl⟩, fun h => absurd h (by omega)⟩
    · refine ⟨_, step_of_idle hp hd, ?_⟩
      rw [State.passTime_completing hs hms]
      exact ⟨halfBitPassed rfl rfl, rfl, rfl, rfl, fun h => absurd h (by omega), fun _ => millisecondPassed rfl rfl rfl rfl⟩
  case applied =>
    rw [step_of_idle hp (State.due_of_start hs), State.passTime_of_start hs, if_pos (by simpa using happlied)]
  case start =>
    refine ⟨_, step_of_idle hp (State.due_of_start hs), ?_⟩
    rw [State.passTime_of_start hs, if_neg (by simp [hpor, hsrst])]
    exact ⟨rfl, timerTicked _, hs, rfl, rfl, rfl, rfl, rfl, rfl, rfl, hp⟩

end Sys2Proof.Machine

/-!
Arrivals at a MEMBER (R136, R137), whatever their class: what the rule of the class meets, what follows it, and what the
two together leave as it was.
-/

namespace Sys2Proof.Machine

variable {s : State} {f : Frame}

/-! ### What the rule of a class meets, and what follows it -/

/-- R136, R137: the frame of another station, or the own one, arrives at a MEMBER. -/
def State.Hears (s : State) (f : Frame) : Prop := HearsOther s f ∨ HearsOwn s f

/-- R136 steps 1 and 2: the state that the rule of the class meets: the frame taken, its sender heard, the entry of an own
arrival removed, the cancellations made. -/
def State.met (s : State) (f : Frame) : State :=
  (if f.sender = s.self then (s.frameDone.hear f.sender).ownDone else s.frameDone.hear f.sender).cancelFor f

/-- R31, R51, R161: what follows the rule of the class, which has led to `u`: the advance condition evaluated over a changed
view, and at the own arrival the remembered request. -/
def State.concluded (s : State) (f : Frame) (u : State) : State :=
  if f.sender = s.self then (u.settleTerms s.dvu).applyRemembered s.txq.remembered (rewindOf f.body)
  else u.settleTerms s.dvu

theorem State.applyArrival_other (h : f.sender ≠ s.self) (rule : State → State) :
    s.frameDone.applyArrival f false rule = s.concluded f (rule (s.met f)) := by
  rw [State.concluded, State.met, if_neg h, if_neg h]
  rfl

theorem State.applyArrival_own (h : f.sender = s.self) (rule : State → State) :
    s.frameDone.applyArrival f true rule = s.concluded f (rule (s.met f)) := by
  rw [State.concluded, State.met, if_pos h, if_pos h]
  rfl

/-- The arrival of another station's frame at a MEMBER, under any rule. -/
theorem HearsOther.arrive (h : HearsOther s f) (rule : State → State) :
    s.arrive f rule = s.concluded f (rule (s.met f)) := by
  obtain ⟨hm, ⟨hquiet, -⟩, hother, hvalid⟩ := h
  obtain ⟨hdrive, hmismatch⟩ := Bool.or_eq_false_iff.1 hquiet
  have hdue : s.lif.collisionDue = false := by simp [Lif.collisionDue, hmismatch]
  rw [State.arrive_valid hvalid hdue, State.arriveValid_quiet hdrive, State.takeArrival]
  simp only [hm, Lif.drove_of_not_isFrame hdrive, if_neg hother, Bool.false_eq_true, if_false]
  exact State.applyArrival_other hother rule

/-- The own arrival at a MEMBER, under any rule. -/
theorem HearsOwn.arrive (h : HearsOwn s f) (rule : State → State) :
    s.arrive f rule = s.concluded f (rule (s.met f)) := by
  obtain ⟨hm, ⟨⟨n, hdrive⟩, hmismatch⟩, -, hown, hvalid⟩ := h
  have hdue : s.lif.collisionDue = false := by simp [Lif.collisionDue, hmismatch]
  have hdrove : s.lif.drove f = true := by simp [Lif.drove, hdrive]
  rw [State.arrive_valid hvalid hdue, State.arriveValid, if_neg (by simp [hdrove]), State.takeArrival]
  simp only [hm, hdrove, if_true]
  exact State.applyArrival_own hown rule

theorem State.Hears.arrive (h : s.Hears f) (rule : State → State) :
    s.arrive f rule = s.concluded f (rule (s.met f)) :=
  h.elim (fun k => k.arrive rule) (fun k => k.arrive rule)

theorem State.Hears.member (h : s.Hears f) : s.stc.station = .member := h.elim HearsOther.member HearsOwn.member

theorem State.Hears.valid (h : s.Hears f) : frameValid f = true := h.elim HearsOther.valid HearsOwn.valid

/-- Every command that carries a frame, where the frame is heard. -/
theorem exec_of_heard {c : Instr} (hc : c.frame? = some f) (h : s.Hears f) :
    exec c s = .next (s.concluded f (State.ruleFor f (s.met f))) := by
  rw [exec_of_frame hc, h.arrive]

/-! ### The state that the rule meets -/

section

variable (s : State) (f : Frame)

@[simp] theorem State.met_stc : (s.met f).stc = s.stc := by
  unfold State.met
  split <;> simp

@[simp] theorem State.met_dvu : (s.met f).dvu = (s.hear f.sender).dvu := by
  unfold State.met
  have hframe : (s.frameDone.hear f.sender).dvu = (s.hear f.sender).dvu := rfl
  split <;> simp [hframe]

@[simp] theorem State.met_bsu : (s.met f).bsu = s.bsu := by
  unfold State.met
  split <;> simp

@[simp] theorem State.met_qru : (s.met f).qru = s.qru := by
  unfold State.met
  split <;> simp

@[simp] theorem State.met_clg : (s.met f).clg = s.clg := by
  unfold State.met
  split <;> simp

@[simp] theorem State.met_lpt : (s.met f).lpt = s.lpt := by
  unfold State.met
  split <;> simp

@[simp] theorem State.met_pending : (s.met f).pending = s.pending := by
  unfold State.met
  split <;> simp

@[simp] theorem State.met_self : (s.met f).self = s.self := congrArg (fun c : Stc => c.straps.id) (s.met_stc f)

@[simp] theorem State.met_rank : (s.met f).rank = s.rank := congrArg (fun c : Stc => c.straps.rank) (s.met_stc f)

@[simp] theorem State.met_profile : (s.met f).profile = s.profile :=
  congrArg (fun c : Stc => c.straps.prof) (s.met_stc f)

@[simp] theorem State.met_record (j : StationId) : (s.met f).record j = (s.hear f.sender).record j :=
  congrArg (fun d : Dvu => d.records[j]) (s.met_dvu f)

theorem State.met_lif : (s.met f).lif = { s.lif with
    receive := .outside, idle := 0, gapTaken := false
    drive := if f.sender = s.self then .none else s.lif.drive
    collisions := if f.sender = s.self then 0 else s.lif.collisions
    driveFaults := if f.sender = s.self then 0 else s.lif.driveFaults } := by
  unfold State.met
  split <;> simp

end

/-- R13: the sender's record once it has been heard. -/
theorem State.hear_record (s : State) (i j : StationId) :
    (s.hear i).record j = if j = i ∧ (s.record i).present = true then { s.record j with silence := 0 } else s.record j := by
  rw [State.hear, record_updateRecord]
  by_cases hj : j = i
  · subst hj
    simp
  · simp [hj]

theorem State.hear_record_other {i j : StationId} (h : j ≠ i) : (s.hear i).record j = s.record j := by
  rw [State.hear_record, if_neg fun hc => h hc.1]

theorem State.hear_record_present {i : StationId} (h : (s.record i).present = true) :
    (s.hear i).record i = { s.record i with silence := 0 } := by
  rw [State.hear_record, if_pos ⟨rfl, h⟩]

theorem State.hear_record_absent {i : StationId} (h : (s.record i).present = false) :
    (s.hear i).record i = s.record i := by
  rw [State.hear_record, if_neg fun hc => by simp [h] at hc]

/-- Hearing a sender touches its silence age alone. -/
theorem State.hear_fields (s : State) (i j : StationId) :
    ((s.hear i).record j).terms = (s.record j).terms := by
  rw [State.hear_record]
  split <;> rfl

theorem State.hear_present (s : State) (i j : StationId) :
    ((s.hear i).record j).present = (s.record j).present :=
  congrArg Prod.fst (s.hear_fields i j)

/-! ### The queue that the rule meets -/

theorem Txq.cancel_of_none {q : Txq} (h : q.inFlight = none) (k : Key) :
    q.cancel k = { q with entries := removeKey q.entries k } := by
  rw [Txq.cancel, if_neg (by simp [h])]

theorem Txq.arrived_of_some {q : Txq} {k : Key} (h : q.inFlight = some k) :
    q.arrived = ⟨removeKey q.entries k, none, none⟩ := by
  simp only [Txq.arrived, h]

/-- R162: the entries that the arrival of a frame leaves of those that wait. -/
def keptEntries (f : Frame) (l : List Entry) : List Entry :=
  (cancelledKey f.body).elim id (fun k kept => removeKey kept k) (removeKey l (.memberSilent f.sender))

theorem mem_keptEntries (f : Frame) (l : List Entry) (e : Entry) :
    e ∈ keptEntries f l ↔ e ∈ l ∧ e.key ≠ .memberSilent f.sender ∧ cancelledKey f.body ≠ some e.key := by
  unfold keptEntries
  cases cancelledKey f.body with
  | none => simp [mem_removeKey]
  | some k => simp [mem_removeKey, and_assoc, eq_comm]

theorem keptEntries_length (f : Frame) (l : List Entry) : (keptEntries f l).length ≤ l.length := by
  have hremove : ∀ (m : List Entry) (k : Key), (removeKey m k).length ≤ m.length := fun m k => List.length_filter_le _ m
  unfold keptEntries
  cases cancelledKey f.body with
  | none => exact hremove _ _
  | some k => exact (hremove _ k).trans (hremove _ _)

/-- R162: the cancellations that an arrival makes, where nothing is in flight. -/
theorem State.cancelFor_txq {u : State} (h : u.txq.inFlight = none) (f : Frame) :
    (u.cancelFor f).txq = { u.txq with entries := keptEntries f u.txq.entries } := by
  have hfirst : (u.cancel (.memberSilent f.sender)).txq =
      { u.txq with entries := removeKey u.txq.entries (.memberSilent f.sender) } := Txq.cancel_of_none h _
  unfold State.cancelFor keptEntries
  cases cancelledKey f.body with
  | none => exact hfirst
  | some k =>
    show ((u.cancel (.memberSilent f.sender)).txq).cancel k = _
    rw [hfirst]
    exact Txq.cancel_of_none (q := ⟨removeKey u.txq.entries _, u.txq.inFlight, u.txq.remembered⟩) h k

/-- The queue once the entry of an own arrival has been removed. -/
def State.shed (s : State) (f : Frame) : Txq := if f.sender = s.self then s.txq.arrived else s.txq

theorem State.shed_other (h : f.sender ≠ s.self) : s.shed f = s.txq := if_neg h

theorem HearsOther.shed (h : HearsOther s f) : s.shed f = s.txq := State.shed_other h.other

theorem HearsOwn.shed (h : HearsOwn s f) :
    s.shed f = ⟨removeKey s.txq.entries (bodyKey f.body), none, none⟩ := by
  rw [State.shed, if_pos h.own, Txq.arrived_of_some h.flight]

theorem State.Hears.shed_inFlight (h : s.Hears f) : (s.shed f).inFlight = none := by
  rcases h with h | h <;> rw [h.shed]
  exact h.quiet.2

theorem State.Hears.mem_shed (h : s.Hears f) (e : Entry) :
    e ∈ (s.shed f).entries ↔ e ∈ s.txq.entries ∧ (f.sender = s.self → e.key ≠ bodyKey f.body) := by
  rcases h with h | h <;> rw [h.shed]
  · simp [h.other]
  · simp [mem_removeKey, h.own]

theorem State.Hears.shed_length (h : s.Hears f) : (s.shed f).entries.length ≤ s.txq.entries.length := by
  rcases h with h | h <;> rw [h.shed]
  exact List.length_filter_le _ _

theorem State.Hears.met_txq (h : s.Hears f) :
    (s.met f).txq = { s.shed f with entries := keptEntries f (s.shed f).entries } := by
  have hshed : (if f.sender = s.self then (s.frameDone.hear f.sender).ownDone else s.frameDone.hear f.sender).txq =
      s.shed f := by
    unfold State.shed
    split <;> simp
  rw [State.met, State.cancelFor_txq (hshed ▸ h.shed_inFlight), hshed]

theorem State.Hears.met_inFlight (h : s.Hears f) : (s.met f).txq.inFlight = none := by
  rw [h.met_txq, h.shed_inFlight]

/-- R162, R137: what the queue holds when the rule of the class is applied. -/
theorem State.Hears.mem_met (h : s.Hears f) (e : Entry) :
    e ∈ (s.met f).txq.entries ↔ (e ∈ s.txq.entries ∧ (f.sender = s.self → e.key ≠ bodyKey f.body)) ∧
      e.key ≠ .memberSilent f.sender ∧ cancelledKey f.body ≠ some e.key := by
  rw [h.met_txq, mem_keptEntries, h.mem_shed]

theorem State.Hears.met_length (h : s.Hears f) : (s.met f).txq.entries.length ≤ s.txq.entries.length := by
  rw [h.met_txq]
  exact (keptEntries_length f _).trans h.shed_length

theorem State.Hears.mem_of_mem_met (h : s.Hears f) {e : Entry} (he : e ∈ (s.met f).txq.entries) :
    e ∈ s.txq.entries := ((h.mem_met e).1 he).1.1

/-! ### What follows the rule -/

section

variable (s : State) (f : Frame) (u : State)

@[simp] theorem State.concluded_stc : (s.concluded f u).stc = u.stc := by
  unfold State.concluded
  split <;> simp

@[simp] theorem State.concluded_lif : (s.concluded f u).lif = u.lif := by
  unfold State.concluded
  split <;> simp

@[simp] theorem State.concluded_dvu : (s.concluded f u).dvu = u.dvu := by
  unfold State.concluded
  split <;> simp

@[simp] theorem State.concluded_bsu : (s.concluded f u).bsu = u.bsu := by
  unfold State.concluded
  split <;> simp

@[simp] theorem State.concluded_clg : (s.concluded f u).clg = u.clg := by
  unfold State.concluded
  split <;> simp

@[simp] theorem State.concluded_lpt : (s.concluded f u).lpt = u.lpt := by
  unfold State.concluded
  split <;> simp

@[simp] theorem State.concluded_pending : (s.concluded f u).pending = u.pending := by
  unfold State.concluded
  split <;> simp

@[simp] theorem State.concluded_record (j : StationId) : (s.concluded f u).record j = u.record j :=
  congrArg (fun d : Dvu => d.records[j]) (s.concluded_dvu f u)

@[simp] theorem State.concluded_logPending : (s.concluded f u).logPending = u.logPending := by
  rw [State.logPending, State.concluded_clg, State.logPending]

end

theorem State.concluded_other {u : State} (h : f.sender ≠ s.self) : s.concluded f u = u.settleTerms s.dvu := if_neg h

theorem State.concluded_own {u : State} (h : f.sender = s.self) :
    s.concluded f u = (u.settleTerms s.dvu).applyRemembered s.txq.remembered (rewindOf f.body) := if_pos h

theorem State.concluded_unremembered {u : State} (h : s.txq.remembered = none) :
    s.concluded f u = u.settleTerms s.dvu := by
  rw [State.concluded, h]
  exact ite_self _

theorem State.settleTerms_length (u : State) (d : Dvu) :
    (u.settleTerms d).txq.entries.length ≤ u.txq.entries.length + 1 := by
  rcases u.settleTerms_txq_cases d with hq | ⟨o, n, hq⟩ <;> rw [hq]
  · exact Nat.le_succ _
  · exact Txq.request_length _ _

/-- R51, R161: the remembered request is made of nothing but a FAULT or an action, or not at all. -/
theorem State.applyRemembered_cases (u : State) (rem : Option Remembered) (b : Option Rank) :
    u.applyRemembered rem b = u ∨ ∃ e, u.applyRemembered rem b = u.request e ∧
      ((∃ g, rem = some (.fault g) ∧ e = .fault g) ∨ ∃ a, rem = some (.hold a) ∧ e = .hold a) := by
  match rem, b with
  | none, _ | some .cancellation, _ => exact .inl rfl
  | some (.hold a), _ => exact .inr ⟨_, rfl, .inr ⟨a, rfl, rfl⟩⟩
  | some (.fault g), none => exact .inr ⟨_, rfl, .inl ⟨g, rfl, rfl⟩⟩
  | some (.fault g), some b =>
    by_cases habsorbed : faultAbsorbed g b u.rank = true
    · exact .inl (if_pos habsorbed)
    · exact .inr ⟨_, if_neg habsorbed, .inl ⟨g, rfl, rfl⟩⟩

theorem State.concluded_qru_room {u : State} (h : u.txq.entries.length ≤ 10) : (s.concluded f u).qru = u.qru := by
  have hsettled : (u.settleTerms s.dvu).qru = u.qru := u.settleTerms_qru_room s.dvu (show _ < 12 by omega)
  have hlength := u.settleTerms_length s.dvu
  unfold State.concluded
  split
  · rcases (u.settleTerms s.dvu).applyRemembered_cases s.txq.remembered (rewindOf f.body) with hr | ⟨e, hr, -⟩ <;> rw [hr]
    · exact hsettled
    · rw [State.request_qru_room _ (show _ < 12 by omega), hsettled]
  · exact hsettled

/-- What every arrival at a MEMBER does apart from its class, where the rule of the class has led to `u`. -/
theorem heardFrame_of_rule {u : State} (hstc : u.stc = s.stc) (hlif : u.lif = (s.met f).lif)
    (hpending : u.pending = s.pending)
    (hslots : s.txq.entries.length ≤ 9 → u.qru = s.qru ∧ u.txq.entries.length ≤ 10) :
    HeardFrame s (s.concluded f u) f where
  stc := by rw [State.concluded_stc, hstc]
  line := by rw [State.concluded_lif, hlif, State.met_lif]
  slots := fun h => by
    obtain ⟨hqru, hlength⟩ := hslots h
    rw [State.concluded_qru_room hlength, hqru]
  pending := by rw [State.concluded_pending, hpending]

end Sys2Proof.Machine

/-!
What the rules of the frames ask of the queue (R158, R165), and that none of them lets a silence age begin again (R13): the
two statements about every arrival, whatever its class.
-/

namespace Sys2Proof.Machine

/-! ### What is asked of the queue -/

/-- The queue has come from `p` to `q` by requests for the keys `l` at most, and by removals. -/
structure Txq.Grows (p q : Txq) (l : List Key) : Prop where
  keys       : ∀ e ∈ q.entries, e.key ∈ l ∨ e.key ∈ p.entries.map Entry.key
  length     : q.entries.length ≤ p.entries.length + l.length
  inFlight   : q.inFlight = p.inFlight
  remembered : p.inFlight = none → q.remembered = p.remembered

/-- The state has come from `u` to `v` with requests for the keys `l` at most; with room for them no slot is touched. -/
structure Requests (u v : State) (l : List Key) : Prop where
  queue : u.txq.Grows v.txq l
  slots : u.txq.entries.length + l.length ≤ 12 → v.qru = u.qru

namespace Txq.Grows

variable {p q r : Txq} {l m : List Key}

theorem refl (p : Txq) : p.Grows p [] := ⟨fun _ he => .inr (List.mem_map_of_mem he), le_rfl, rfl, fun _ => rfl⟩

theorem trans (h : p.Grows q l) (k : q.Grows r m) : p.Grows r (l ++ m) where
  keys := fun e he => by
    rcases k.keys e he with hm | hq
    · exact .inl (List.mem_append_right l hm)
    · obtain ⟨x, hx, hkey⟩ := List.mem_map.1 hq
      rw [← hkey]
      exact (h.keys x hx).imp (List.mem_append_left m) id
  length := by
    have h1 := h.length
    have h2 := k.length
    rw [List.length_append]
    omega
  inFlight := k.inFlight.trans h.inFlight
  remembered := fun hn => (k.remembered (h.inFlight.trans hn)).trans (h.remembered hn)

theorem mono (h : p.Grows q l) (hs : l.Sublist m) : p.Grows q m :=
  ⟨fun e he => (h.keys e he).imp_left fun hm => hs.subset hm, h.length.trans (Nat.add_le_add_left hs.length_le _),
    h.inFlight, h.remembered⟩

theorem removed (p : Txq) (keep : Entry → Bool) : p.Grows { p with entries := p.entries.filter keep } [] :=
  ⟨fun _ he => .inr (List.mem_map_of_mem (List.mem_of_mem_filter he)), List.length_filter_le _ _, rfl, fun _ => rfl⟩

theorem cancel (p : Txq) (k : Key) : p.Grows (p.cancel k) [] := by
  unfold Txq.cancel
  split
  · next hf => exact ⟨(refl p).keys, le_rfl, rfl, fun hn => by simp [hn] at hf⟩
  · exact removed p _

theorem purge (p : Txq) (b own : Rank) : p.Grows (p.purge b own) [] := removed p _

theorem request (p : Txq) (e : Entry) : p.Grows (p.request e).1 [e.key] where
  keys := fun x hx => by
    by_cases hk : x.key = e.key
    · exact .inl (by simp [hk])
    · exact .inr (List.mem_map_of_mem (Txq.mem_of_mem_request hx hk))
  length := Txq.request_length p e
  inFlight := p.request_inFlight e
  remembered := fun hn => Txq.request_remembered (by simp [hn])

/-- Keys that were neither held nor asked for are not held. -/
theorem not_mem (h : p.Grows q l) {k : Key} (hl : k ∉ l) (hp : ∀ e ∈ p.entries, e.key ≠ k) :
    ∀ e ∈ q.entries, e.key ≠ k := by
  rintro e he rfl
  rcases h.keys e he with hm | hm
  · exact hl hm
  · obtain ⟨x, hx, hkey⟩ := List.mem_map.1 hm
    exact hp x hx hkey

/-- R157: a queue of distinct keys has grown by no more than the keys asked for. -/
theorem length_of_subset (h : p.Grows q l) (hq : q.Sound) (hs : l ⊆ m) :
    q.entries.length ≤ p.entries.length + m.length := by
  have hsub : q.entries.map Entry.key ⊆ p.entries.map Entry.key ++ m := fun k hk => by
    obtain ⟨e, he, rfl⟩ := List.mem_map.1 hk
    rcases h.keys e he with hl | hp
    · exact List.mem_append_right _ (hs hl)
    · exact List.mem_append_left _ hp
  simpa using (hq.keys.subperm hsub).length_le

end Txq.Grows

namespace Requests

variable {u v w : State} {l m : List Key}

theorem of_same (hq : v.txq = u.txq) (hs : v.qru = u.qru) : Requests u v [] := ⟨hq ▸ .refl _, fun _ => hs⟩

theorem refl (u : State) : Requests u u [] := of_same rfl rfl

theorem trans (h : Requests u v l) (k : Requests v w m) : Requests u w (l ++ m) where
  queue := h.queue.trans k.queue
  slots := fun hroom => by
    have hlength := h.queue.length
    rw [List.length_append] at hroom
    rw [k.slots (by omega), h.slots (by omega)]

theorem mono (h : Requests u v l) (hs : l.Sublist m) : Requests u v m :=
  ⟨h.queue.mono hs, fun hroom => h.slots ((Nat.add_le_add_left hs.length_le _).trans hroom)⟩

theorem from_same (h : Requests v w l) (hq : v.txq = u.txq) (hs : v.qru = u.qru) : Requests u w l :=
  ⟨hq ▸ h.queue, fun hroom => (h.slots (hq ▸ hroom)).trans hs⟩

theorem then_same (h : Requests u v l) (hq : w.txq = v.txq) (hs : w.qru = v.qru) : Requests u w l :=
  ⟨hq ▸ h.queue, fun hroom => hs.trans (h.slots hroom)⟩

theorem cancel (u : State) (k : Key) : Requests u (u.cancel k) [] := ⟨.cancel _ _, fun _ => rfl⟩

theorem purge (u : State) (b : Rank) : Requests u (u.purge b) [] := ⟨.purge _ _ _, fun _ => rfl⟩

theorem request (u : State) (e : Entry) : Requests u (u.request e) [e.key] :=
  ⟨u.request_txq e ▸ .request _ _, fun hroom => u.request_qru_room e hroom⟩

theorem evalAdvance (u : State) : Requests u u.evalAdvance [.advance] := by
  unfold State.evalAdvance
  split
  · exact request u _
  · exact (refl u).mono (List.nil_sublist _)

theorem settleTerms (u : State) (d : Dvu) : Requests u (u.settleTerms d) [.advance] := by
  rcases u.settleTerms_cases d with h | h <;> rw [h]
  · exact (refl u).mono (List.nil_sublist _)
  · exact evalAdvance u

theorem holdRunning (u : State) : Requests u u.holdRunning [] := by
  unfold State.holdRunning
  split
  · exact (of_same (by simp) (by simp)).trans (cancel _ _)
  · exact refl u

theorem boardRewind (u : State) (b : Rank) : Requests u (u.boardRewind b) [] := by
  unfold State.boardRewind
  split
  · exact (holdRunning u).then_same (by simp) (by simp)
  · exact of_same (by simp) (by simp)

theorem addHold (u : State) (i : StationId) : Requests u (u.addHold i) [] := by
  have hset : ∀ h : Vector Bool 32, Requests u (u.setHold h) [] := fun h => of_same (by simp) (by simp)
  unfold State.addHold State.freezeIf
  split
  · exact (hset _).trans (cancel _ _)
  · exact hset _

theorem reconcile (u : State) (i : StationId) (b : Bool) : Requests u (u.reconcile i b) [] := by
  unfold State.reconcile
  split
  · exact addHold u i
  · exact of_same (by simp) (by simp)

theorem rewind (u : State) (b : Rank) (c : Cause) (r : Option (Option Scope × Option StationId)) :
    Requests u (u.rewind b c r) [.advance] := by
  have hmoved : Requests u (((u.setDvu (u.dvu.rewind b (c == .start) u.self u.profile)).boardRewind b).purge b) [] :=
    ((boardRewind _ b).from_same (by simp) (by simp)).trans (purge _ b)
  unfold State.rewind
  cases r with
  | none => exact hmoved.trans (evalAdvance _)
  | some r => exact (hmoved.then_same (by simp) (by simp)).trans (evalAdvance _)

theorem raiseView (u : State) (b : Rank) : Requests u (u.raiseView b) [.fault] :=
  (request _ _).from_same (by simp) (by simp)

theorem announceEqual (u : State) (i : StationId) (a : AnnounceFields) : Requests u (u.announceEqual i a) [.fault] := by
  have happlied : Requests u ((u.applyAnnounce i a).reconcile i a.holding) [] :=
    (reconcile _ _ _).from_same (by simp) (by simp)
  unfold State.announceEqual State.viewCheck
  split
  · exact (happlied.then_same (by simp) (by simp)).mono (List.nil_sublist _)
  · exact (happlied.then_same (by simp) (by simp)).trans (raiseView _ _)

theorem catchUp (u : State) (i : StationId) (e : Epoch) (a : AnnounceFields) :
    Requests u (u.catchUp i e a) [.announce, .advance] := by
  have happlied : Requests u (((u.setDvu (u.dvu.catchUp e a u.profile)).applyAnnounce i a).reconcile i a.holding) [] :=
    (reconcile _ _ _).from_same (by simp) (by simp)
  have hasked := ((happlied.trans (boardRewind _ a.base)).trans (purge _ a.base)).trans (request _ .announce)
  exact (hasked.then_same (by simp) (by simp)).trans (evalAdvance _)

theorem refresh (u : State) (i : StationId) (a : AnnounceFields) : Requests u (u.refresh i a) [] :=
  of_same (by simp) (by simp)

theorem advanceRule (u : State) (i : StationId) (e : Epoch) (o n : Front) :
    Requests u (u.advanceRule i e o n) [.advance] := by
  unfold State.advanceRule
  split
  · exact (evalAdvance _).from_same (by simp) (by simp)
  · exact evalAdvance u

theorem rankTimeoutRule (u : State) (i : StationId) (e : Epoch) (k : Rank) :
    Requests u (u.rankTimeoutRule i e k) [.advance] := by
  unfold State.rankTimeoutRule
  split
  · exact (evalAdvance _).from_same (by simp) (by simp)
  · exact (refl u).mono (List.nil_sublist _)

theorem memberSilentRule (u : State) (i : StationId) (e : Epoch) (k : StationId) :
    Requests u (u.memberSilentRule i e k) [.announce] := by
  unfold State.memberSilentRule
  split
  · split
    · exact request u _
    · exact (of_same (by simp) (by simp) : Requests u _ []).mono (List.nil_sublist _)
  · exact (refl u).mono (List.nil_sublist _)

theorem applyFault (u : State) (i : StationId) (f : FaultFields) : Requests u (u.applyFault i f) [.advance] := by
  unfold State.applyFault
  split
  · exact rewind u _ _ _
  · exact (evalAdvance _).from_same (by simp) (by simp)

theorem holdRule (u : State) (i : StationId) : Requests u (u.holdRule i) [] := by
  unfold State.holdRule
  split
  · exact (addHold u i).then_same (by simp) (by simp)
  · exact refl u

theorem resumeRule (u : State) (i : StationId) : Requests u (u.resumeRule i) [] :=
  of_same (by simp [State.resumeRule]) (by simp [State.resumeRule])

theorem readyRule (u : State) (i : StationId) (e : Epoch) (k : Rank) : Requests u (u.readyRule i e k) [] := by
  unfold State.readyRule
  split
  · exact of_same (by simp) (by simp)
  · exact refl u

end Requests

theorem Txq.Grows.queryRule (u : State) (i k : StationId) (item : Item) (tag : Tag) :
    u.txq.Grows (u.queryRule i k item tag).txq [.reply i tag] := by
  have hslot : (if i = u.self then u.updateSlot tag.slot (fun sl => sl.startTimer tag.gen u.profile) else u).txq =
      u.txq := by
    split <;> simp
  unfold State.queryRule
  dsimp only
  split
  · rw [State.request_txq, hslot]
    exact Txq.Grows.request _ _
  · rw [hslot]
    exact (Txq.Grows.refl _).mono (List.nil_sublist _)

theorem Txq.Grows.replyRule (u : State) (i : StationId) (r : ReplyFields) :
    u.txq.Grows (u.replyRule i r).txq [] := by
  unfold State.replyRule
  split
  · exact Txq.Grows.cancel _ _
  · exact Txq.Grows.refl _

/-- No rule asks for a lapse. -/
theorem Txq.Grows.ruleFor (f : Frame) (u : State) : ∃ l : List Key, u.txq.Grows (State.ruleFor f u).txq l ∧
    (∀ i, Key.memberSilent i ∉ l) ∧ ∀ k, Key.rankTimeout k ∉ l := by
  have hasks : ∀ {t : State} {l : List Key}, Requests u t l → ((∀ i, Key.memberSilent i ∉ l) ∧ ∀ k, Key.rankTimeout k ∉ l) →
      ∃ l : List Key, u.txq.Grows t.txq l ∧ (∀ i, Key.memberSilent i ∉ l) ∧ ∀ k, Key.rankTimeout k ∉ l :=
    fun h hl => ⟨_, h.queue, hl⟩
  apply State.ruleFor_cases (P := fun t => ∃ l : List Key, u.txq.Grows t.txq l ∧
    (∀ i, Key.memberSilent i ∉ l) ∧ ∀ k, Key.rankTimeout k ∉ l)
  case announce =>
    intro a _
    unfold State.announceRule
    split
    · exact hasks (Requests.announceEqual u _ a) (by simp)
    · split
      · exact hasks (Requests.catchUp u _ _ a) (by simp)
      · exact hasks (Requests.refresh u _ a) (by simp)
    · exact hasks ((Requests.refresh u _ a).trans (Requests.request _ _)) (by simp [Entry.key])
  case advance => exact fun o n _ => hasks (Requests.advanceRule u _ _ o n) (by simp)
  case rankTimeout => exact fun k _ => hasks (Requests.rankTimeoutRule u _ _ k) (by simp)
  case memberSilent => exact fun i _ => hasks (Requests.memberSilentRule u _ _ i) (by simp)
  case fault =>
    intro c _
    unfold State.faultRule
    split
    · exact hasks (Requests.applyFault u _ c) (by simp)
    · exact hasks (Requests.request u _) (by simp [Entry.key])
    · exact hasks (Requests.refl u) (by simp)
  case hold => exact fun _ => hasks (Requests.holdRule u _) (by simp)
  case resume => exact fun _ => hasks (Requests.resumeRule u _) (by simp)
  case ready => exact fun r _ => hasks (Requests.readyRule u _ _ r) (by simp)
  case query => exact fun i item tag _ => ⟨_, Txq.Grows.queryRule u _ i item tag, by simp, by simp⟩
  case reply => exact fun r _ => ⟨_, Txq.Grows.replyRule u _ r, by simp, by simp⟩

/-! ### Silence ages -/

/-- No silence age that stands at 0 has left it. -/
def SilenceKept (u v : State) : Prop := ∀ i : StationId, (u.record i).silence = 0 → (v.record i).silence = 0

namespace SilenceKept

variable {u v w : State}

theorem of_records (h : v.dvu.records = u.dvu.records) : SilenceKept u v := fun i hi => by
  simpa only [State.record, h] using hi

theorem refl (u : State) : SilenceKept u u := of_records rfl

theorem trans (h : SilenceKept u v) (k : SilenceKept v w) : SilenceKept u w := fun i hi => k i (h i hi)

theorem update (u : State) (i : StationId) {g : Record → Record} (hg : ∀ r : Record, r.silence = 0 → (g r).silence = 0) :
    SilenceKept u (u.updateRecord i g) := fun j hj => by
  rw [record_updateRecord]
  split
  · next h => exact hg _ (h ▸ hj)
  · exact hj

theorem request (u : State) (e : Entry) : SilenceKept u (u.request e) := of_records (by simp)

theorem evalAdvance (u : State) : SilenceKept u u.evalAdvance := of_records (by simp)

theorem purge (u : State) (b : Rank) : SilenceKept u (u.purge b) := of_records rfl

theorem follows (h : OnlyOwnFollows u v) : SilenceKept u v := fun i hi => by
  by_cases hself : i = u.self
  · subst hself
    rw [h.own]
    split
    · exact hi
    · exact hi
  · rw [h.others i hself]
    exact hi

theorem append (u : State) (c : Cause) (sc : Option Scope) (o : Option StationId) (b : Option Rank) :
    SilenceKept u (u.append c sc o b) := follows (u.append_follows c sc o b false)

theorem holdRunning (u : State) : SilenceKept u u.holdRunning := by
  unfold State.holdRunning
  split
  · exact follows (u.contain_follows .held)
  · exact refl u

theorem evalRelease (u : State) : SilenceKept u u.evalRelease := by
  unfold State.evalRelease
  split
  · exact follows (u.setBsu_follows _)
  · exact refl u

theorem boardRewind (u : State) (b : Rank) : SilenceKept u (u.boardRewind b) := by
  unfold State.boardRewind
  split
  · exact (holdRunning u).trans (evalRelease _)
  · exact evalRelease u

theorem reconcile (u : State) (i : StationId) (b : Bool) : SilenceKept u (u.reconcile i b) := fun j hj => by
  rwa [State.reconcile_record]

theorem addHold (u : State) (i : StationId) : SilenceKept u (u.addHold i) := reconcile u i true

theorem rewind (u : State) (b : Rank) (c : Cause) (r : Option (Option Scope × Option StationId)) :
    SilenceKept u (u.rewind b c r) := by
  have hview : SilenceKept u (u.setDvu (u.dvu.rewind b (c == .start) u.self u.profile)) := fun i hi => by
    rw [record_setDvu, Dvu.rewind_records]
    unfold Record.rewindOwn Record.rewind
    split_ifs <;> exact hi
  have hmoved := (hview.trans (boardRewind _ b)).trans (purge _ b)
  unfold State.rewind
  cases r with
  | none => exact hmoved.trans (evalAdvance _)
  | some r => exact (hmoved.trans (append _ _ _ _ _)).trans (evalAdvance _)

theorem joinIfAbsent {r : Record} (h : r.silence = 0) (e : Epoch) : (r.joinIfAbsent e).silence = 0 := by
  unfold Record.joinIfAbsent
  split
  · exact h
  · rfl

theorem applyAnnounce (u : State) (i : StationId) (a : AnnounceFields) : SilenceKept u (u.applyAnnounce i a) := by
  refine update u i fun r hr => ?_
  dsimp only
  split
  · exact joinIfAbsent hr _
  · exact joinIfAbsent hr _

theorem refresh (u : State) (i : StationId) (a : AnnounceFields) : SilenceKept u (u.refresh i a) := by
  refine update u i fun r hr => ?_
  dsimp only
  split
  · exact joinIfAbsent hr _
  · exact joinIfAbsent hr _

theorem viewCheck (u : State) (i : StationId) (a : AnnounceFields) : SilenceKept u (u.viewCheck i a) := by
  unfold State.viewCheck
  split
  · exact update u i fun _ hr => hr
  · have hmarked : SilenceKept u (u.updateRecord i fun r => { r with disagree := true }) := update u i fun _ hr => hr
    exact (hmarked.trans (append _ _ _ _ _)).trans (request _ _)

theorem catchUp (u : State) (i : StationId) (e : Epoch) (a : AnnounceFields) : SilenceKept u (u.catchUp i e a) := by
  have hview : SilenceKept u (u.setDvu (u.dvu.catchUp e a u.profile)) := fun i hi => by
    rw [record_setDvu]
    simp only [Dvu.catchUp, Dvu.startGather_records, Dvu.startSettle_records, mapTable_fin]
    split <;> exact hi
  have happlied := (hview.trans (applyAnnounce _ i a)).trans (reconcile _ i a.holding)
  have hmoved := (happlied.trans (boardRewind _ a.base)).trans (purge _ a.base)
  exact ((hmoved.trans (request _ .announce)).trans (append _ _ _ _ _)).trans (evalAdvance _)

/-- R13: no rule of a class puts a silence age up. -/
theorem ruleFor (f : Frame) (u : State) : SilenceKept u (State.ruleFor f u) := by
  apply State.ruleFor_cases (P := SilenceKept u)
  case announce =>
    intro a _
    unfold State.announceRule
    split
    · exact ((applyAnnounce u _ a).trans (reconcile _ _ _)).trans (viewCheck _ _ a)
    · split
      · exact catchUp u _ _ a
      · exact refresh u _ a
    · exact (refresh u _ a).trans (request _ _)
  case advance =>
    intro o n _
    unfold State.advanceRule
    split
    · have hmoved : SilenceKept u (u.setDvu (u.dvu.advanceTo n u.profile)) := of_records rfl
      exact (hmoved.trans (evalRelease _)).trans (evalAdvance _)
    · exact evalAdvance u
  case rankTimeout =>
    intro k _
    unfold State.rankTimeoutRule
    split
    · have hmarked : SilenceKept u (u.setDvu (u.dvu.markLate.startSettle u.profile)) := fun i hi => by
        rw [record_setDvu]
        simp only [Dvu.startSettle_records, Dvu.markLate, mapTable_fin]
        split <;> exact hi
      exact hmarked.trans (evalAdvance _)
    · exact refl u
  case memberSilent =>
    intro i _
    unfold State.memberSilentRule
    split
    · split
      · exact request u _
      · unfold State.removeMember
        split
        · have hleft : SilenceKept u (u.updateRecord i Record.leave) := update u i fun _ _ => rfl
          exact hleft.trans (of_records rfl)
        · exact refl u
    · exact refl u
  case fault =>
    intro c _
    unfold State.faultRule
    split
    · unfold State.applyFault
      split
      · exact rewind u _ _ _
      · refine SilenceKept.trans (v := u.markLocal f.sender c.senderRank) ?_ (evalAdvance _)
        unfold State.markLocal
        split
        · exact refl u
        · refine update u _ fun r hr => ?_
          split <;> exact hr
    · exact request u _
    · exact refl u
  case hold =>
    intro _
    unfold State.holdRule
    split
    · refine (addHold u f.sender).trans (of_records ?_)
      unfold State.startHoldLimit
      split <;> rfl
    · exact refl u
  case resume => exact fun _ => of_records (by unfold State.resumeRule State.stopHoldLimit; split <;> rfl)
  case ready =>
    intro r _
    unfold State.readyRule
    split
    · refine update u _ fun x hx => ?_
      unfold Record.readied
      split_ifs <;> exact hx
    · exact refl u
  case query => exact fun i item tag _ => of_records (by unfold State.queryRule; split <;> split <;> simp)
  case reply => exact fun r _ => of_records (by unfold State.replyRule; split <;> simp)

end SilenceKept

end Sys2Proof.Machine

/-!
Every arrival at a MEMBER (R13, R136, R137, R161, R162): what it does whatever the class of the frame.
-/

namespace Sys2Proof.Machine

variable {s : State} {f : Frame}

/-- R162: after the frame of another station no lapse is pending that the arrival has cancelled. -/
theorem HearsOther.not_mem_lapse (h : HearsOther s f) {k : Key}
    (hlapse : (∃ i, k = .memberSilent i) ∨ ∃ r, k = .rankTimeout r)
    (hcancelled : k = .memberSilent f.sender ∨ cancelledKey f.body = some k) :
    ∀ e ∈ (s.concluded f (State.ruleFor f (s.met f))).txq.entries, e.key ≠ k := by
  obtain ⟨l, hgrows, hsilent, htimeout⟩ := Txq.Grows.ruleFor f (s.met f)
  rw [State.concluded_other h.other]
  refine (hgrows.trans (Requests.settleTerms _ s.dvu).queue).not_mem ?_ fun e he hk => ?_
  · rw [List.mem_append, List.mem_singleton]
    rcases hlapse with ⟨i, rfl⟩ | ⟨r, rfl⟩
    · exact fun hm => hm.elim (hsilent i) nofun
    · exact fun hm => hm.elim (htimeout r) nofun
  · obtain ⟨-, hsender, hbody⟩ := (State.Hears.mem_met (.inl h) e).1 he
    rcases hcancelled with hc | hc
    · exact hsender (hk.trans hc)
    · exact hbody (hc.trans (congrArg some hk.symm))

/-- Settles O28: the steps of R136 before the rule, which asks for no lapse and puts no silence age up. -/
theorem everyArrivalResetsSilenceAndCancels : Obligations.EveryArrivalResetsSilenceAndCancels := by
  intro s c f hc h
  obtain ⟨l, hgrows, -, -⟩ := Txq.Grows.ruleFor f (s.met f)
  have hlif := s.met_lif f
  simp only [if_neg h.other] at hlif
  refine ⟨_, exec_of_heard hc (.inl h), by simp, by simp [hlif], by simp, ?_, fun hp => ?_,
    fun he => h.not_mem_lapse (.inl ⟨_, rfl⟩) (.inl rfl) _ he rfl,
    fun k hk he => h.not_mem_lapse (.inr ⟨k, rfl⟩) (.inr (by rw [hk]; rfl)) _ he rfl,
    fun i hi he => h.not_mem_lapse (.inl ⟨i, rfl⟩) (.inr (by rw [hi]; rfl)) _ he rfl⟩
  · rw [State.concluded_other h.other, (Requests.settleTerms _ _).queue.inFlight, hgrows.inFlight,
      State.Hears.met_inFlight (.inl h)]
  · rw [State.concluded_record]
    refine SilenceKept.ruleFor f (s.met f) f.sender ?_
    rw [State.met_record, State.hear_record_present hp]

/-! ### The own arrival -/

theorem State.shed_sound (hq : s.txq.Sound) (f : Frame) : (s.shed f).Sound := by
  unfold State.shed
  split
  · exact hq.arrived
  · exact hq

theorem State.Hears.met_sound (h : s.Hears f) (hq : s.txq.Sound) : (s.met f).txq.Sound := by
  obtain ⟨u, hu⟩ : ∃ u : State, u.txq = s.shed f := ⟨s.setTxq (s.shed f), rfl⟩
  have hkept := (kept_cancelFor u f).sound (hu ▸ State.shed_sound hq f)
  rwa [State.cancelFor_txq (hu ▸ h.shed_inFlight), hu, ← h.met_txq] at hkept

/-- R137: the entry that was in flight has left room for one more. -/
theorem HearsOwn.met_length_lt (h : HearsOwn s f) (hq : s.txq.Sound) :
    (s.met f).txq.entries.length < s.txq.entries.length := by
  obtain ⟨e, he, hk⟩ := List.mem_map.1 (hq.held _ h.flight)
  rw [State.Hears.met_txq (.inr h), h.shed, ← hk]
  exact (keptEntries_length f _).trans_lt (removeKey_length_lt he)

theorem HearsOwn.met_remembered (h : HearsOwn s f) : (s.met f).txq.remembered = none := by
  rw [State.Hears.met_txq (.inr h), h.shed]

theorem HearsOwn.not_mem_met (h : HearsOwn s f) : ∀ e ∈ (s.met f).txq.entries, e.key ≠ bodyKey f.body :=
  fun e he => ((State.Hears.mem_met (.inr h) e).1 he).1.2 h.own

/-- The rule of the own frame at equal epoch asks for no entry of the frame's own key but an ADVANCE; that of a FAULT or of
a hold asks for an ADVANCE at most. -/
theorem Txq.Grows.ruleFor_equal {u : State} (hj : u.judge f.sender f.epoch = .equal) :
    ∃ l : List Key, u.txq.Grows (State.ruleFor f u).txq l ∧ (bodyKey f.body ≠ .advance → bodyKey f.body ∉ l) ∧
      ((∃ g, f.body = .fault g) ∨ (∃ a, f.body = .hold a) → l ⊆ [.advance]) := by
  have hasks : ∀ {t : State} {l : List Key} {b : Body}, f.body = b → Requests u t l →
      (bodyKey b ≠ .advance → bodyKey b ∉ l) → ((∃ g, b = .fault g) ∨ (∃ a, b = .hold a) → l ⊆ [.advance]) →
      ∃ l : List Key, u.txq.Grows t.txq l ∧ (bodyKey f.body ≠ .advance → bodyKey f.body ∉ l) ∧
        ((∃ g, f.body = .fault g) ∨ (∃ a, f.body = .hold a) → l ⊆ [.advance]) :=
    fun hb h hkey hadvance => ⟨_, h.queue, hb ▸ hkey, hb ▸ hadvance⟩
  apply State.ruleFor_cases (P := fun t => ∃ l : List Key, u.txq.Grows t.txq l ∧
    (bodyKey f.body ≠ .advance → bodyKey f.body ∉ l) ∧
    ((∃ g, f.body = .fault g) ∨ (∃ a, f.body = .hold a) → l ⊆ [.advance]))
  case announce =>
    intro a hb
    unfold State.announceRule
    rw [hj]
    exact hasks hb (Requests.announceEqual u _ a) (by simp [bodyKey]) (by simp)
  case advance => exact fun o n hb => hasks hb (Requests.advanceRule u _ _ o n) (by simp [bodyKey]) (by simp)
  case rankTimeout => exact fun k hb => hasks hb (Requests.rankTimeoutRule u _ _ k) (by simp [bodyKey]) (by simp)
  case memberSilent => exact fun i hb => hasks hb (Requests.memberSilentRule u _ _ i) (by simp [bodyKey]) (by simp)
  case fault =>
    intro c hb
    unfold State.faultRule
    rw [hj]
    exact hasks hb (Requests.applyFault u _ c) (by simp [bodyKey]) (by simp)
  case hold => exact fun hb => hasks hb (Requests.holdRule u _) (by simp) (by simp)
  case resume => exact fun hb => hasks hb (Requests.resumeRule u _) (by simp) (by simp)
  case ready => exact fun r hb => hasks hb (Requests.readyRule u _ _ r) (by simp) (by simp)
  case query =>
    exact fun i item tag hb => ⟨_, Txq.Grows.queryRule u _ i item tag, by simp [hb, bodyKey], by simp [hb]⟩
  case reply => exact fun r hb => ⟨_, Txq.Grows.replyRule u _ r, by simp, by simp⟩

/-- R158: with room, an action asked for while none is held is pending. -/
theorem Txq.mem_request_fresh {q : Txq} {e : Entry} (hl : q.entries.length < Config.queueCapacity)
    (hn : ∀ x ∈ q.entries, x.key ≠ e.key) : e ∈ (q.request e).1.entries := by
  have hheld : q.holds e.key = false := (q.holds_eq_false_iff _).2 fun hm => by
    obtain ⟨x, hx, hk⟩ := List.mem_map.1 hm
    exact hn x hx hk
  rw [Txq.request_fresh e hl hheld]
  exact List.mem_append_right _ (List.mem_singleton_self e)

/-- R51: whether the remembered FAULT of an own arrival becomes a request. -/
theorem State.applyRemembered_fault (u : State) (g : FaultFields) (rewound : Option Rank) :
    (u.applyRemembered (some (.fault g)) rewound = u.request (.fault g) ∧
      ∀ b, rewound = some b → faultAbsorbed g b u.rank = false) ∨
    (u.applyRemembered (some (.fault g)) rewound = u ∧ ∃ b, rewound = some b ∧ faultAbsorbed g b u.rank = true) := by
  cases rewound with
  | none => exact .inl ⟨rfl, nofun⟩
  | some b =>
    by_cases habsorbed : faultAbsorbed g b u.rank = true
    · exact .inr ⟨if_pos habsorbed, b, rfl, habsorbed⟩
    · exact .inl ⟨if_neg habsorbed, fun c hc => by cases hc; exact Bool.eq_false_iff.2 habsorbed⟩

/-- R161: the queue once the rule of an own frame and the evaluation of the view are over: its own key is not held, nothing
is in flight or remembered, and after a FAULT or an action there is room. -/
theorem HearsOwn.settled (h : HearsOwn s f) (he : f.epoch = s.dvu.epoch) (hq : s.txq.Sound) :
    ∃ q : Txq, q = ((State.ruleFor f (s.met f)).settleTerms s.dvu).txq ∧ q.inFlight = none ∧ q.remembered = none ∧
      (bodyKey f.body ≠ .advance → ∀ e ∈ q.entries, e.key ≠ bodyKey f.body) ∧
      ((∃ g, f.body = .fault g) ∨ (∃ a, f.body = .hold a) → s.txq.entries.length ≤ 11 → q.entries.length < 12) := by
  have hj : (s.met f).judge f.sender f.epoch = .equal := by simp [State.judge, he]
  obtain ⟨l, hgrows, hkey, hadvance⟩ := Txq.Grows.ruleFor_equal hj
  have hall := hgrows.trans (Requests.settleTerms (State.ruleFor f (s.met f)) s.dvu).queue
  have hnone : (s.met f).txq.inFlight = none := State.Hears.met_inFlight (.inr h)
  have hsound := ((kept_settleTerms (State.ruleFor f (s.met f)) s.dvu).sound
    ((kept_ruleFor (s.met f) f).sound (State.Hears.met_sound (.inr h) hq)))
  refine ⟨_, rfl, hall.inFlight.trans hnone, (hall.remembered hnone).trans h.met_remembered, fun hne => ?_,
    fun hb hlen => ?_⟩
  · exact hall.not_mem (by simpa [hne] using hkey hne) h.not_mem_met
  · have hgrown := hall.length_of_subset hsound (List.append_subset.2 ⟨hadvance hb, List.Subset.refl _⟩)
    have hshed := h.met_length_lt hq
    simp only [List.length_singleton] at hgrown
    omega

/-- Settles O29: the own entry goes before the rule is applied, and what was remembered beside it comes after. -/
theorem ownArrivalRemovesItsEntry : Obligations.OwnArrivalRemovesItsEntry := by
  intro s c f hc h he hq
  obtain ⟨q, hsettled, hnone, hremembered, hkey, hroom⟩ := h.settled he hq
  have hlif := s.met_lif f
  simp only [if_pos h.own] at hlif
  have hcases := (State.ruleFor f (s.met f)).settleTerms s.dvu |>.applyRemembered_cases s.txq.remembered (rewindOf f.body)
  rw [← State.concluded_own h.own] at hcases
  have hqueue : ∀ e, (s.concluded f (State.ruleFor f (s.met f))) =
      ((State.ruleFor f (s.met f)).settleTerms s.dvu).request e →
      (s.concluded f (State.ruleFor f (s.met f))).txq = (q.request e).1 := fun e hr => by
    rw [hr, State.request_txq, hsettled]
  refine ⟨_, exec_of_heard hc (.inr h), by simp, by simp, by simp [hlif], ?_, ?_, fun hr hne => ?_,
    fun a b hb hr hlen => ?_, fun g x hb hr hlen => ?_⟩
  · rcases hcases with hs | ⟨e, hs, -⟩
    · rw [hs, ← hsettled, hnone]
    · rw [hqueue e hs, Txq.request_inFlight, hnone]
  · rcases hcases with hs | ⟨e, hs, -⟩
    · rw [hs, ← hsettled, hremembered]
    · rw [hqueue e hs, Txq.request_remembered (by simp [hnone]), hremembered]
  · rw [State.concluded_unremembered hr, ← hsettled]
    exact hkey hne
  · have hs : s.concluded f (State.ruleFor f (s.met f)) =
        ((State.ruleFor f (s.met f)).settleTerms s.dvu).request (.hold a) := by
      rw [State.concluded_own h.own, hr]
      rfl
    rw [hqueue _ hs]
    refine Txq.mem_request_fresh (hroom (.inr ⟨b, hb⟩) hlen) ?_
    rw [hb] at hkey
    exact hkey (by simp [bodyKey])
  · have hfresh : ∀ e ∈ q.entries, e.key ≠ .fault := by
      rw [hb] at hkey
      exact hkey (by simp [bodyKey])
    have hrank : ((State.ruleFor f (s.met f)).settleTerms s.dvu).rank = s.rank := by simp [State.rank]
    rw [State.concluded_own h.own, hr]
    rcases ((State.ruleFor f (s.met f)).settleTerms s.dvu).applyRemembered_fault g (rewindOf f.body)
      with ⟨hs, hspared⟩ | ⟨hs, b, hrewound, habsorbed⟩
    · rw [hs, State.request_txq, ← hsettled]
      exact iff_of_true (Txq.mem_request_fresh (hroom (.inl ⟨x, hb⟩) hlen) hfresh) (hrank ▸ hspared)
    · rw [hs, ← hsettled]
      refine iff_of_false (fun hm => hfresh _ hm rfl) fun hnot => ?_
      rw [hrank, hnot b hrewound] at habsorbed
      cases habsorbed

end Sys2Proof.Machine

/-!
Arrivals outside MEMBER (R1, R23, R24, R113, R116, R117, R124): the states that apply nothing, and adoption in LISTEN.
-/

namespace Sys2Proof.Machine

variable {s : State} {f : Frame}

/-! ### Where nothing is applied -/

/-- The arrival of a valid frame at a station that drives none and has no collision to report. -/
theorem exec_of_quiet {c : Instr} (hc : c.frame? = some f) (hv : frameValid f = true)
    (hdrive : s.lif.drive.isFrame = false) (htold : CollisionTold s.lif) :
    exec c s = .next (s.takeArrival f (State.ruleFor f)) := by
  rw [exec_of_validFrame hc hv, State.settleCollision_told htold, State.arriveValid_quiet hdrive]

theorem State.takeArrival_listen (h : s.stc.station = .listen) (rule : State → State) :
    s.takeArrival f rule = s.frameDone.listenArrival f := by
  simp only [State.takeArrival, h]

theorem State.listenArrival_other (h : ∀ a, f.body ≠ .announce a) : s.listenArrival f = s := by
  unfold State.listenArrival
  split
  · next a ha => exact absurd ha (h a)
  · rfl

/-- R113: in START nothing is received. -/
theorem State.arrive_start (h : s.stc.station = .start) (f : Frame) (rule : State → State) : s.arrive f rule = s := by
  have hdeaf : s.receiving = false := by simp [State.receiving, h]
  have htake : s.takeArrival f rule = s := by simp only [State.takeArrival, h]
  rw [State.arrive, State.receptionFault, State.tellLimits, State.discardReceived, State.settleCollision,
    State.arriveValid]
  simp [hdeaf, htake]

/-- Settles O27: by the station's state. -/
theorem arrivalsOutsideMemberChangeNothing : Obligations.ArrivalsOutsideMemberChangeNothing := by
  refine fun s c f hc => ⟨fun hstart => ?start, fun hinvalid => ?invalid, fun hv hdrive htold hst => ?deaf⟩
  case start => rw [exec_of_frame hc, State.arrive_start hstart]
  case invalid =>
    rw [exec_of_frame hc, State.arrive, if_pos hinvalid]
    rfl
  case deaf =>
    have hdone : s.takeArrival f (State.ruleFor f) = s.frameDone := by
      rcases hst with h | h | ⟨h, hother⟩
      · exact State.takeArrival_deaf (.inl h) f _
      · exact State.takeArrival_deaf (.inr h) f _
      · rw [State.takeArrival_listen h, State.listenArrival_other hother]
    rw [exec_of_quiet hc hv hdrive htold, hdone]
    rfl

/-! ### The queue after a purge that asks for an ANNOUNCE (R164) -/

/-- R31: with room, a second evaluation of the advance condition asks for nothing. -/
theorem State.evalAdvance_settleTerms {u : State} (h : u.txq.entries.length < Config.queueCapacity) (d : Dvu) :
    u.evalAdvance.settleTerms d = u.evalAdvance := by
  rcases u.evalAdvance.settleTerms_cases d with hs | hs
  · exact hs
  · rw [hs]
    refine State.evalAdvance_of_no_condition ?_
    cases hc : u.advanceCondition with
    | false => rwa [State.evalAdvance_of_no_condition hc]
    | true =>
      have hheld : (u.txq.request (.advance u.dvu.front u.dvu.nextFront)).1.holds .advance = true := by
        rw [Txq.holds_iff]
        exact Txq.request_holds (.advance u.dvu.front u.dvu.nextFront) (.inl h)
      rw [State.evalAdvance_of_condition hc]
      simp [State.advanceCondition, hheld]

/-- R31, R163, R164: an evaluation asks for no ADVANCE but one with the fields of the moment. -/
theorem State.mem_settleTerms_advance {u : State} (d : Dvu) {e : Entry} (he : e ∈ (u.settleTerms d).txq.entries) :
    e ∈ u.txq.entries ∨ e = .advance u.dvu.front u.dvu.nextFront := by
  rcases u.settleTerms_cases d with hs | hs <;> rw [hs] at he
  · exact .inl he
  · cases hc : u.advanceCondition with
    | false => exact .inl (by rwa [State.evalAdvance_of_no_condition hc] at he)
    | true =>
      rw [State.evalAdvance_of_condition hc, State.request_txq] at he
      rcases Txq.mem_request he with hm | hm | ⟨y, hy, hk, rfl⟩
      · exact .inl hm
      · exact .inr hm
      · cases y with
        | advance o n => exact .inl hy
        | _ => cases hk

/-- R164, R31: the evaluation of a changed view, after the purge's own. -/
theorem QueuePurged.settle {v : State} {b : Rank} (h : QueuePurged s v.evalAdvance b)
    (hroom : s.txq.entries.length ≤ 10 → v.txq.entries.length < 12) (d : Dvu) :
    QueuePurged s (v.evalAdvance.settleTerms d) b := by
  obtain ⟨hadvance, ⟨htimeout, hsilent⟩, hready, hfault, hkept, hnothing⟩ := h
  have hmem : ∀ e ∈ (v.evalAdvance.settleTerms d).txq.entries, e.key ≠ .advance → e ∈ v.evalAdvance.txq.entries :=
    fun e he hk => State.mem_of_mem_settleTerms d he hk
  refine ⟨fun o n hm => ?_, ⟨fun k hm => htimeout k (hmem _ hm nofun), fun i hm => hsilent i (hmem _ hm nofun)⟩,
    fun r hm => hready r (hmem _ hm nofun), fun f hm => hfault f (hmem _ hm nofun), fun hlen => ?_, fun e he => ?_⟩
  · rw [State.settleTerms_dvu]
    rcases State.mem_settleTerms_advance d hm with hold | hnew
    · exact hadvance o n hold
    · cases hnew
      exact ⟨rfl, rfl⟩
  · rw [State.evalAdvance_settleTerms (hroom hlen)]
    exact hkept hlen
  · rcases State.mem_settleTerms_advance d he with hold | rfl
    · exact hnothing e hold
    · exact .inr (.inr rfl)

/-- R164: a purged queue that an ANNOUNCE is asked of, and the advance condition evaluated. -/
theorem queuePurged_of_announce {x : State} {p : Txq} {b : Rank} (hp : p = s.txq ∨ p = s.txq.cancel .ready)
    (hf : s.txq.inFlight = none) (hx : x.txq = ((p.purge b s.rank).request .announce).1) :
    QueuePurged s x.evalAdvance b := by
  have hpf : p.inFlight = none := by rcases hp with rfl | rfl <;> simp [hf]
  have hpurged := (Txq.purge_purged hpf b s.rank (fun o k => o = x.dvu.front ∧ k = x.dvu.nextFront)).request
    (e := .announce) (.inr rfl)
  rw [← hx] at hpurged
  exact PurgedTo.queuePurged le_rfl (by simpa using hpurged.evalAdvance) hp hf

/-! ### Adoption (R24) -/

/-- R24: the state of adoption before the purge: the view taken over, with the two records of the sender and the own. -/
def State.adopting (s : State) (i : StationId) (e : Epoch) (a : AnnounceFields) : State :=
  (((s.setStc { s.stc with station := .member, listenIn := .stopped }).setDvu
    (s.dvu.adopt i e a s.self s.profile)).makeOwnPresent).updateRecord i (fun r => r.adopted e a)

/-- R24, R164: the state of adoption once the queue has been purged and the ANNOUNCE asked for. -/
def State.adoptAsked (s : State) (i : StationId) (e : Epoch) (a : AnnounceFields) : State :=
  ((s.adopting i e a).purge a.base).request .announce

theorem State.adopt_eq (s : State) (i : StationId) (e : Epoch) (a : AnnounceFields) :
    s.adopt i e a = (s.adoptAsked i e a).evalRelease.evalAdvance := rfl

theorem State.adopt_requests (s : State) (i : StationId) (e : Epoch) (a : AnnounceFields) :
    Requests s (s.adopt i e a) [.announce, .advance] := by
  have hasked : Requests s (s.adoptAsked i e a) [.announce] :=
    ((Requests.of_same (by simp [State.adopting]) (by simp [State.adopting])).trans
      (Requests.purge (s.adopting i e a) a.base)).trans (Requests.request _ .announce)
  have hreleased : Requests s (s.adoptAsked i e a).evalRelease [.announce] := hasked.then_same (by simp) (by simp)
  exact hreleased.trans (Requests.evalAdvance _)

theorem State.adoptAsked_frame (s : State) (i : StationId) (e : Epoch) (a : AnnounceFields) :
    (s.adoptAsked i e a).stc = { s.stc with station := .member, listenIn := .stopped } ∧
    (s.adoptAsked i e a).bsu = s.bsu ∧ (s.adoptAsked i e a).clg = s.clg ∧
    (s.adoptAsked i e a).txq = ((s.txq.purge a.base s.rank).request .announce).1 := by
  simp [State.adoptAsked, State.adopting, State.rank]

/-- R8, R9, R24: the records of an adopted view, before the release. -/
theorem State.adoptAsked_record {i : StationId} (hi : i ≠ s.self) (e : Epoch) (a : AnnounceFields) (j : StationId) :
    (s.adoptAsked i e a).record j =
      if j = i then ⟨true, a.senderRank, a.board, a.board == .ready, false, 0, e, false, a.budget, a.logPending⟩
      else if j = s.self then ⟨true, s.rank, s.bsu.board, false, false, 0, e, false, s.bsu.budget, s.logPending⟩
      else (s.record j).leave := by
  have hasked : (s.adoptAsked i e a).record j = (s.adopting i e a).record j := by
    simp [State.record, State.adoptAsked]
  have hview : ∀ k : StationId, (s.dvu.adopt i e a s.self s.profile).records[k] =
      if k = s.self ∨ k = i then s.record k else (s.record k).leave := fun k => by
    simp only [Dvu.adopt, Dvu.startGather_records, Dvu.startSettle_records, mapTable_fin]
    rfl
  have hself : (((s.setStc { s.stc with station := .member, listenIn := .stopped }).setDvu
      (s.dvu.adopt i e a s.self s.profile))).self = s.self := rfl
  rw [hasked, State.adopting, record_updateRecord, State.makeOwnPresent]
  simp only [record_updateRecord, hself, record_setDvu, hview]
  by_cases hj : j = i
  · simp [hj, hi, Record.adopted, Record.join, Record.announced]
  · by_cases hown : j = s.self
    · simp only [hown, if_true, true_or]
      simp [Ne.symm hi, Record.mirror, Record.join, State.rank, State.logPending, Dvu.adopt, Dvu.startGather,
        Dvu.startSettle]
    · simp [hj, hown]

theorem State.adoptAsked_view (s : State) (i : StationId) (e : Epoch) (a : AnnounceFields) :
    (s.adoptAsked i e a).dvu.epoch = e ∧ (s.adoptAsked i e a).dvu.base = a.base ∧
    (s.adoptAsked i e a).dvu.front = a.front ∧ (s.adoptAsked i e a).dvu.gather = a.gather ∧
    (s.adoptAsked i e a).dvu.gatherExpired = false ∧
    (s.adoptAsked i e a).dvu.holdSet = (Vector.replicate 32 false).set i a.holding ∧
    (s.adoptAsked i e a).dvu.announce = .running (announcePeriod s.profile) ∧
    (s.adoptAsked i e a).dvu.holdLimit = s.dvu.holdLimit ∧
    (s.adoptAsked i e a).dvu.gatherTimer = (if a.gather then .running (gatherInterval s.profile) else .stopped) ∧
    (s.adoptAsked i e a).dvu.settle =
      if frontIsRank a.front then .running (settleInterval s.profile) else .stopped := by
  simp [State.adoptAsked, State.adopting, Dvu.adopt, Dvu.startGather, Dvu.startSettle]
  rfl

/-- R24, R71: the records once adoption has evaluated the release. -/
theorem State.adopt_record {i : StationId} (hi : i ≠ s.self) (e : Epoch) (a : AnnounceFields) (j : StationId) :
    (s.adopt i e a).record j =
      if j = i then ⟨true, a.senderRank, a.board, a.board == .ready, false, 0, e, false, a.budget, a.logPending⟩
      else if j = s.self then
        ⟨true, s.rank, (s.adopt i e a).bsu.board, false, false, 0, e, false, s.bsu.budget, s.logPending⟩
      else (s.record j).leave := by
  obtain ⟨hstc, hbsu, hclg, -⟩ := s.adoptAsked_frame i e a
  have hrec := State.adoptAsked_record hi e a
  have hlast : (s.adopt i e a).record j = (s.adoptAsked i e a).evalRelease.record j := by
    simp [State.adopt_eq, State.record]
  have hboard : (s.adopt i e a).bsu = (s.adoptAsked i e a).evalRelease.bsu := by simp [State.adopt_eq]
  set u := s.adoptAsked i e a with hu
  have hself : u.self = s.self := by simp [State.self, hstc]
  rw [hlast, hboard]
  by_cases hj : j = s.self
  · have hown : u.record u.self =
        ⟨true, s.rank, s.bsu.board, false, false, 0, e, false, s.bsu.budget, s.logPending⟩ := by
      rw [hself, hrec, if_neg (Ne.symm hi), if_pos rfl]
    have hshows : OwnSound u := by
      rw [ownSound_iff, hown]
      refine ⟨rfl, ?_, ?_, ?_, ?_, rfl⟩ <;> simp [hstc, hbsu, hclg, State.rank, State.logPending]
    rw [hj, if_neg (Ne.symm hi), if_pos rfl, ← hself,
      State.evalRelease_own (by simp [hstc]) hshows (by simp [hown]), hown]
  · rw [(State.evalRelease_others u).others j (by rwa [hself]), hrec, if_neg hj, if_neg hj]

theorem State.adoptable_iff (s : State) (i : StationId) (e : Epoch) (a : AnnounceFields) :
    s.adoptable i e a = true ↔ i ≠ s.self ∧ (compareEpoch e s.dvu.epoch i s.self = .newer ∨
      (compareEpoch e s.dvu.epoch i s.self = .equal ∧ frontValue s.dvu.front ≤ frontValue a.front)) := by
  unfold State.adoptable State.judge frontAtLeast
  cases compareEpoch e s.dvu.epoch i s.self <;> simp

/-- Settles O33: the ANNOUNCE is adopted or left, by `State.adoptable_iff`; what adoption writes, block by block. -/
theorem listenAdoptsTheFirstFitAnnounce : Obligations.ListenAdoptsTheFirstFitAnnounce := by
  intro s i e a hst hv hdrive htold hflight
  have hexec : exec (.announceArrival i e a) s =
      .next (if s.frameDone.adoptable i e a then s.frameDone.adopt i e a else s.frameDone) := by
    rw [exec_of_quiet (f := ⟨i, e, .announce a⟩) rfl hv hdrive htold, State.takeArrival_listen hst]
    rfl
  have hleft : ¬(i ≠ s.self ∧ (compareEpoch e s.dvu.epoch i s.self = .newer ∨
      (compareEpoch e s.dvu.epoch i s.self = .equal ∧ frontValue s.dvu.front ≤ frontValue a.front))) →
      exec (.announceArrival i e a) s = .next s.frameDone := fun hn => by
    rw [hexec, if_neg fun ha => hn ((s.frameDone.adoptable_iff i e a).1 ha)]
  refine ⟨fun hi => hleft fun hfit => hfit.1 hi, fun hi hfit => ?adopted, fun hi hunfit => hleft fun hfit => ?older⟩
  case older =>
    rcases hunfit with hold | ⟨heq, hlow⟩ <;> rcases hfit.2 with hnew | ⟨heq', hhigh⟩
    · rw [hold] at hnew
      cases hnew
    · rw [hold] at heq'
      cases heq'
    · rw [heq] at hnew
      cases hnew
    · exact absurd hhigh (not_le.2 hlow)
  case adopted =>
    obtain ⟨hstc, hbsu, hclg, htxq⟩ := s.frameDone.adoptAsked_frame i e a
    obtain ⟨hepoch, hbase, hfront, hgather, hexpired, hholds, hannounce, hlimit, hgatherTimer, hsettle⟩ :=
      s.frameDone.adoptAsked_view i e a
    have hrec := State.adopt_record (s := s.frameDone) hi e a
    have heq := s.frameDone.adopt_eq i e a
    have hrequests := s.frameDone.adopt_requests i e a
    rw [if_pos ((s.frameDone.adoptable_iff i e a).2 ⟨hi, hfit⟩)] at hexec
    refine ⟨_, hexec, by simp [heq, hstc], by simp [heq, hepoch], by simp [heq, hbase], by simp [heq, hfront],
      by simp [heq, hgather], by simp [heq, hexpired], by simp [heq, hannounce, State.profile], by simp [heq, hlimit],
      by simp [heq, hgatherTimer, State.profile], ?settle, fun j => ?holds, ?own, ?sender, fun j hj hself => ?others,
      ?release, ?queue, fun hlen => ⟨?announced, ?slots⟩, by simp, by simp, by simp, by simp⟩
    case settle =>
      rw [heq, State.evalAdvance_dvu, State.evalRelease_dvu_settle, hsettle]
      cases a.front <;> rfl
    case holds =>
      rw [heq, State.evalAdvance_dvu, State.evalRelease_dvu_holdSet, hholds, vset_eq]
      split <;> simp_all
    case own =>
      rw [hrec, if_neg (Ne.symm hi)]
      exact if_pos rfl
    case sender => rw [hrec, if_pos rfl]
    case others =>
      rw [hrec, if_neg hj]
      exact if_neg hself
    case release =>
      exact hbsu ▸ (s.frameDone.adoptAsked i e a).evalRelease_evaluated.of_same (by simp [heq]) (by simp [heq])
        (by simp [heq]) (by simp [heq])
    case queue =>
      have hq := queuePurged_of_announce (s := s.frameDone) (x := (s.frameDone.adoptAsked i e a).evalRelease) (.inl rfl)
        hflight (by rw [State.evalRelease_txq, htxq])
      obtain ⟨h1, h2, h3, h4, h5, h6⟩ := hq
      exact ⟨h1, h2, h3, h4, h5, h6⟩
    case announced =>
      have hpurge : (s.txq.purge a.base s.rank).entries.length ≤ s.txq.entries.length := List.length_filter_le _ _
      have hasked := Txq.request_length (s.txq.purge a.base s.rank) .announce
      have hroom : (s.txq.purge a.base s.rank).entries.length < 12 := by omega
      rw [heq]
      refine State.mem_evalAdvance ?_ ?_ <;> rw [State.evalRelease_txq, htxq]
      · exact lt_of_le_of_lt hasked (show _ < 12 by omega)
      · exact Txq.request_announce_mem hroom
    case slots => exact hrequests.slots (show s.txq.entries.length + 2 ≤ 12 by omega)

end Sys2Proof.Machine

/-!
What the arrivals of all classes share once the rule is known (R31, R51, R161), and the rule of READY (R18).
-/

namespace Sys2Proof.Machine

variable {s : State} {f : Frame}

/-! ### What every rule's arrival shares -/

theorem compareEpoch_equal_iff (a b : Epoch) (sender self : StationId) :
    compareEpoch a b sender self = .equal ↔ a = b := by
  unfold compareEpoch
  split_ifs <;> simp_all

theorem State.judge_equal_iff (u : State) (i : StationId) (e : Epoch) : u.judge i e = .equal ↔ e = u.dvu.epoch :=
  compareEpoch_equal_iff _ _ _ _

/-- What every arrival does apart from its class, under a rule that asks for one key at most. -/
theorem State.Hears.heardFrame (h : s.Hears f) {u : State} {l : List Key} (hr : Requests (s.met f) u l)
    (hl : l.length ≤ 1) (hstc : u.stc = (s.met f).stc := by simp) (hlif : u.lif = (s.met f).lif := by simp)
    (hpending : u.pending = (s.met f).pending := by simp) : HeardFrame s (s.concluded f u) f := by
  refine heardFrame_of_rule (hstc.trans (s.met_stc f)) hlif (hpending.trans (s.met_pending f)) fun hlen => ?_
  have hmet := h.met_length
  have hgrown := hr.queue.length
  exact ⟨(hr.slots (by omega)).trans (s.met_qru f), by omega⟩

/-- R51, R161: what the rule and the evaluation have left in the queue stays, where there is room. -/
theorem State.mem_concluded {u : State} (hlen : u.txq.entries.length ≤ 10) {x : Entry}
    (hx : x ∈ (u.settleTerms s.dvu).txq.entries) (hk : x.key ≠ .fault ∧ x.key ≠ .hold) :
    x ∈ (s.concluded f u).txq.entries := by
  have hgrown := u.settleTerms_length s.dvu
  unfold State.concluded
  split
  · rcases (u.settleTerms s.dvu).applyRemembered_cases s.txq.remembered (rewindOf f.body) with hr | ⟨y, hr, hy⟩ <;> rw [hr]
    · exact hx
    · rw [State.request_txq]
      refine Txq.request_keeps_other (show _ < 12 by omega) hx ?_
      rcases hy with ⟨g, -, rfl⟩ | ⟨a, -, rfl⟩
      · exact hk.1
      · exact hk.2
  · exact hx

/-- R51, R161: the remembered request adds nothing but a FAULT or an action. -/
theorem State.mem_of_mem_concluded {u : State} {x : Entry} (hx : x ∈ (s.concluded f u).txq.entries)
    (hk : x.key ≠ .fault ∧ x.key ≠ .hold) : x ∈ (u.settleTerms s.dvu).txq.entries := by
  unfold State.concluded at hx
  split at hx
  · rcases (u.settleTerms s.dvu).applyRemembered_cases s.txq.remembered (rewindOf f.body) with hr | ⟨y, hr, hy⟩ <;>
      rw [hr] at hx
    · exact hx
    · rw [State.request_txq] at hx
      refine Txq.mem_of_mem_request hx ?_
      rcases hy with ⟨g, -, rfl⟩ | ⟨a, -, rfl⟩
      · exact hk.1
      · exact hk.2
  · exact hx

/-- R159: an ANNOUNCE that a rule has asked for is pending in the end, where there is room. -/
theorem State.announce_mem_concluded {u v : State} (hv : v = u.request .announce) (hlen : u.txq.entries.length ≤ 9) :
    .announce ∈ (s.concluded f v).txq.entries := by
  have hgrown := Txq.request_length u.txq .announce
  subst hv
  refine State.mem_concluded (by rw [State.request_txq]; omega) (State.mem_settleTerms ?_ _ ?_) ⟨nofun, nofun⟩
  · rw [State.request_txq]
    exact show _ < 12 by omega
  · rw [State.request_txq]
    exact Txq.request_announce_mem (show _ < 12 by omega)

/-- Hearing the sender changes nothing of the view's domain-wide items. -/
theorem State.concluded_sameDomain {u : State} (h : SameDomain (s.met f).dvu u.dvu) :
    SameDomain s.dvu (s.concluded f u).dvu := by
  obtain ⟨hepoch, hbase, hfront, hgather, hexpired, hholds⟩ := h
  constructor <;> simp [*]

theorem State.concluded_sameTimers {u : State} (h : SameTimers (s.met f).dvu u.dvu) :
    SameTimers s.dvu (s.concluded f u).dvu := by
  obtain ⟨hannounce, hgatherTimer, hsettle, hlimit⟩ := h
  constructor <;> simp [*]

/-! ### READY (R18) -/

theorem State.readyRule_record (u : State) (i : StationId) (e : Epoch) (k : Rank) (j : StationId) :
    (u.readyRule i e k).record j = if j = i ∧ e = u.dvu.epoch then (u.record j).readied (i == u.self) k u.bsu.board
      else u.record j := by
  unfold State.readyRule
  by_cases he : e = u.dvu.epoch
  · rw [if_pos ((u.judge_equal_iff i e).2 he), record_updateRecord]
    by_cases hj : j = i
    · simp [hj, he]
    · simp [hj]
  · rw [if_neg fun hj => he ((u.judge_equal_iff i e).1 hj), if_neg fun hc => he hc.2]

theorem Record.readied_absent {r : Record} (h : r.present = false) (own : Bool) (k : Rank) (b : BoardState) :
    r.readied own k b = r := if_neg (by simp [h])

theorem State.readyRule_view (u : State) (i : StationId) (e : Epoch) (k : Rank) :
    SameDomain u.dvu (u.readyRule i e k).dvu ∧ SameTimers u.dvu (u.readyRule i e k).dvu := by
  unfold State.readyRule
  split
  · exact ⟨⟨rfl, rfl, rfl, rfl, rfl, rfl⟩, ⟨rfl, rfl, rfl, rfl⟩⟩
  · exact ⟨⟨rfl, rfl, rfl, rfl, rfl, rfl⟩, ⟨rfl, rfl, rfl, rfl⟩⟩

/-- Settles O39: the record that `Record.readied` makes of the one that has been heard. -/
theorem readyMarksItsSender : Obligations.ReadyMarksItsSender := by
  intro s i e r h
  have hexec : exec (.readyArrival i e r) s =
      .next (s.concluded ⟨i, e, .ready r⟩ ((s.met ⟨i, e, .ready r⟩).readyRule i e r)) := exec_of_heard rfl h
  obtain ⟨hdomain, htimers⟩ := (s.met ⟨i, e, .ready r⟩).readyRule_view i e r
  have hrec : ∀ j, (s.concluded ⟨i, e, .ready r⟩ ((s.met ⟨i, e, .ready r⟩).readyRule i e r)).record j =
      if j = i ∧ e = s.dvu.epoch then ((s.hear i).record j).readied (i == s.self) r s.bsu.board
      else (s.hear i).record j := fun j => by
    rw [State.concluded_record, State.readyRule_record]
    simp
  refine ⟨_, hexec, State.Hears.heardFrame h (Requests.readyRule _ _ _ _) (Nat.zero_le _), fun he hp hi => ?_,
    fun he hp hi => ?_, fun hn => ?_, fun j hj => ?_, State.concluded_sameDomain hdomain,
    State.concluded_sameTimers htimers, by simp, by simp, by simp⟩
  · rw [hrec, if_pos ⟨rfl, he⟩, State.hear_record_present hp]
    simp [Record.readied, hp, hi]
  · rw [hrec, if_pos ⟨rfl, he⟩, State.hear_record_present hp]
    simp [Record.readied, hp, ← hi]
  · rw [hrec]
    split
    · next hc =>
      obtain hne | habsent := hn
      · exact absurd hc.2 hne
      · exact Record.readied_absent (by rw [State.hear_present, habsent]) _ _ _
    · rfl
  · rw [hrec, if_neg fun hc => hj hc.1, State.hear_record_other hj]

end Sys2Proof.Machine

/-!
The rules of HOLD and RESUME (R98, R99): what each makes of the hold set, the hold limit and the ADVANCE, and what the
arrival of its frame leaves.
-/

namespace Sys2Proof.Machine

variable {s : State} {f : Frame}

/-- The view's items that no holder touches. -/
structure HoldersApart (d e : Dvu) : Prop where
  epoch         : e.epoch = d.epoch
  base          : e.base = d.base
  front         : e.front = d.front
  gather        : e.gather = d.gather
  gatherExpired : e.gatherExpired = d.gatherExpired
  announce      : e.announce = d.announce
  gatherTimer   : e.gatherTimer = d.gatherTimer
  settle        : e.settle = d.settle

theorem State.concluded_holdersApart {u : State} (h : HoldersApart (s.met f).dvu u.dvu) :
    HoldersApart s.dvu (s.concluded f u).dvu := by
  obtain ⟨hepoch, hbase, hfront, hgather, hexpired, hannounce, hgatherTimer, hsettle⟩ := h
  constructor <;> simp [*]

/-! ### HOLD (R98) -/

theorem State.startHoldLimit_holdLimit (u : State) (i : StationId) : (u.startHoldLimit i).dvu.holdLimit =
    if i = u.self then .running (holdLimitInterval u.profile) else u.dvu.holdLimit := by
  unfold State.startHoldLimit
  split <;> rfl

theorem State.startHoldLimit_record (u : State) (i j : StationId) : (u.startHoldLimit i).record j = u.record j := by
  unfold State.startHoldLimit
  split <;> rfl

theorem State.stopHoldLimit_holdLimit (u : State) (i : StationId) : (u.stopHoldLimit i).dvu.holdLimit =
    if i = u.self then .stopped else u.dvu.holdLimit := by
  unfold State.stopHoldLimit
  split <;> rfl

theorem State.stopHoldLimit_record (u : State) (i j : StationId) : (u.stopHoldLimit i).record j = u.record j := by
  unfold State.stopHoldLimit
  split <;> rfl

theorem State.addHold_record (u : State) (i j : StationId) : (u.addHold i).record j = u.record j :=
  u.reconcile_record i true j

theorem State.holdRule_absent {u : State} {i : StationId} (h : (u.record i).present = false) : u.holdRule i = u :=
  if_neg (by simp [h])

theorem State.holdRule_present {u : State} {i : StationId} (h : (u.record i).present = true) :
    u.holdRule i = (u.addHold i).startHoldLimit i := if_pos h

theorem State.holdRule_holdSet (u : State) (i j : StationId) :
    (u.holdRule i).dvu.holdSet[j] = (u.dvu.holdSet[j] || (decide (j = i) && (u.record i).present)) := by
  cases h : (u.record i).present with
  | false => simp [State.holdRule_absent h]
  | true =>
    rw [State.holdRule_present h, State.startHoldLimit_dvu_holdSet, holdSet_addHold]
    by_cases hj : j = i <;> simp [hj]

theorem State.holdRule_holdLimit (u : State) (i : StationId) : (u.holdRule i).dvu.holdLimit =
    if i = u.self ∧ (u.record i).present = true then .running (holdLimitInterval u.profile) else u.dvu.holdLimit := by
  cases h : (u.record i).present with
  | false => simp [State.holdRule_absent h]
  | true =>
    rw [State.holdRule_present h, State.startHoldLimit_holdLimit]
    simp [State.self, State.profile]

theorem State.holdRule_record (u : State) (i j : StationId) : (u.holdRule i).record j = u.record j := by
  unfold State.holdRule
  split
  · rw [State.startHoldLimit_record, State.addHold_record]
  · rfl

theorem State.holdRule_apart (u : State) (i : StationId) : HoldersApart u.dvu (u.holdRule i).dvu := by
  unfold State.holdRule
  split
  · constructor <;> simp
  · exact ⟨rfl, rfl, rfl, rfl, rfl, rfl, rfl, rfl⟩

/-- R103, R163: the first holder freezes the advance. -/
theorem State.holdRule_freezes {u : State} {i : StationId} (hp : (u.record i).present = true)
    (hclear : ∀ j : StationId, u.dvu.holdSet[j] = false) (hflight : u.txq.inFlight = none) :
    (u.holdRule i).advanceCondition = false ∧ ∀ e ∈ (u.holdRule i).txq.entries, e.key ≠ .advance := by
  have hholds : (u.holdRule i).dvu.holdSet[i] = true := by rw [State.holdRule_holdSet, hp]; simp
  have hheld : (u.holdRule i).holdClear = false := Bool.eq_false_iff.2 fun hc => by
    rw [(holdClear_iff _).1 hc i] at hholds
    cases hholds
  refine ⟨by simp [State.advanceCondition, hheld], ?_⟩
  have hset : (u.setHold (u.dvu.holdSet.set i true)).holdClear = false := by
    have hi := holdSet_addHold u i i
    refine Bool.eq_false_iff.2 fun hc => ?_
    have hnone := (holdClear_iff _).1 hc i
    rw [State.setHold_dvu_holdSet, vset_eq, if_pos rfl] at hnone
    cases hnone
  have hq : (u.holdRule i).txq = u.txq.cancel .advance := by
    rw [State.holdRule_present hp, State.startHoldLimit_txq, State.addHold, State.freezeIf,
      if_pos (by simp [(holdClear_iff u).2 hclear, hset])]
    rfl
  rw [hq, Txq.cancel_of_none hflight]
  exact fun e he => (mem_removeKey.1 he).2

/-! ### RESUME (R99) -/

theorem State.resumeRule_holdSet (u : State) (i j : StationId) :
    (u.resumeRule i).dvu.holdSet[j] = (u.dvu.holdSet[j] && decide (j ≠ i)) := by
  have hkept : ((u.removeHold i).stopHoldLimit i).dvu.holdSet = (u.removeHold i).dvu.holdSet := by simp
  rw [State.resumeRule, hkept, holdSet_removeHold]
  by_cases hj : j = i <;> simp [hj]

theorem State.resumeRule_holdLimit (u : State) (i : StationId) : (u.resumeRule i).dvu.holdLimit =
    if i = u.self then .stopped else u.dvu.holdLimit := by
  rw [State.resumeRule, State.stopHoldLimit_holdLimit]
  rfl

theorem State.resumeRule_records (u : State) (i : StationId) : (u.resumeRule i).dvu.records = u.dvu.records := by
  unfold State.resumeRule State.stopHoldLimit
  split <;> rfl

theorem State.resumeRule_record (u : State) (i j : StationId) : (u.resumeRule i).record j = u.record j :=
  State.stopHoldLimit_record _ i j

theorem State.resumeRule_apart (u : State) (i : StationId) : HoldersApart u.dvu (u.resumeRule i).dvu := by
  constructor <;> simp [State.resumeRule]

/-- R31: the advance condition, met but for an ADVANCE that may be held already, leaves an ADVANCE pending. -/
theorem State.advance_pending {u : State} (d : Dvu) (hchanged : d.holdSet ≠ u.dvu.holdSet) (hm : u.stc.station = .member)
    (hfront : u.dvu.front ≠ .all) (hclear : ∀ j : StationId, u.dvu.holdSet[j] = false)
    (hgather : u.dvu.gather = false ∨ u.dvu.gatherExpired = true) (hblocking : u.dvu.someBlocking = false)
    (hroom : u.txq.entries.length < Config.queueCapacity) :
    ∃ o n, .advance o n ∈ (u.settleTerms d).txq.entries := by
  have hterms : termsChanged d u.dvu = true := by simp [termsChanged, hchanged]
  have hadvance : ∀ e : Entry, e.key = .advance → ∃ o n, e = .advance o n := fun e he => by
    cases e with
    | advance o n => exact ⟨o, n, rfl⟩
    | _ => cases he
  have heval : ∃ e ∈ u.evalAdvance.txq.entries, e.key = .advance := by
    cases hheld : u.txq.holds .advance with
    | true =>
      obtain ⟨e, he, hk⟩ := List.mem_map.1 ((u.txq.holds_iff _).1 hheld)
      exact ⟨e, State.mem_evalAdvance hroom he, hk⟩
    | false =>
      have hcondition : u.advanceCondition = true := by
        simp [State.advanceCondition, State.isMember, hm, hfront, (holdClear_iff u).2 hclear, hgather, hblocking, hheld]
      rw [State.evalAdvance_of_condition hcondition, State.request_txq]
      exact List.mem_map.1 (Txq.request_holds _ (.inl hroom))
  obtain ⟨e, he, hk⟩ := heval
  obtain ⟨o, n, rfl⟩ := hadvance e hk
  exact ⟨o, n, by rwa [State.settleTerms, if_pos hterms]⟩

/-- Hearing a sender touches no field that blocks. -/
theorem State.hear_blocking (s : State) (i j : StationId) (g : Front) :
    ((s.hear i).record j).blocking g = (s.record j).blocking g := by
  rw [State.hear_record]
  split <;> rfl

theorem State.hear_someBlocking (s : State) (i : StationId) : (s.hear i).dvu.someBlocking = s.dvu.someBlocking := by
  refine Bool.eq_iff_iff.2 ?_
  rw [Dvu.someBlocking_iff, Dvu.someBlocking_iff, State.hear_dvu_front]
  exact exists_congr fun j => Bool.eq_iff_iff.1 (s.hear_blocking i j s.dvu.front)

/-- Settles O38: the hold set, the hold limit and the ADVANCE after each of the two rules. -/
theorem holdAndResumeChangeTheHoldSet : Obligations.HoldAndResumeChangeTheHoldSet := by
  refine ⟨fun s i e h => ?hold, fun s i e h => ?resume⟩
  case hold =>
    have hexec : exec (.holdArrival i e) s =
        .next (s.concluded ⟨i, e, .hold .hold⟩ ((s.met ⟨i, e, .hold .hold⟩).holdRule i)) := exec_of_heard rfl h
    obtain ⟨hepoch, hbase, hfront, hgather, hexpired, hannounce, hgatherTimer, hsettle⟩ :=
      State.concluded_holdersApart ((s.met ⟨i, e, .hold .hold⟩).holdRule_apart i)
    refine ⟨_, hexec, State.Hears.heardFrame h (Requests.holdRule _ _) (Nat.zero_le _), fun j => ?_, ?_,
      fun hp hclear o n hm => ?_, hepoch, hbase, hfront, hgather, hexpired, hannounce, hgatherTimer, hsettle, fun j => ?_,
      by simp, by simp, by simp⟩
    · rw [State.concluded_dvu, State.holdRule_holdSet]
      simp [State.hear_present]
    · rw [State.concluded_dvu, State.holdRule_holdLimit]
      simp [State.hear_present]
    · obtain ⟨hcondition, hnone⟩ := State.holdRule_freezes (u := s.met ⟨i, e, .hold .hold⟩) (i := i)
        (by simpa [State.hear_present] using hp) (by simpa using hclear) (State.Hears.met_inFlight h)
      have hsettled := State.mem_of_mem_concluded hm ⟨nofun, nofun⟩
      rcases State.settleTerms_cases ((s.met ⟨i, e, .hold .hold⟩).holdRule i) s.dvu with hs | hs <;> rw [hs] at hsettled
      · exact hnone _ hsettled rfl
      · rw [State.evalAdvance_of_no_condition hcondition] at hsettled
        exact hnone _ hsettled rfl
    · rw [State.concluded_record, State.holdRule_record, State.met_record]
  case resume =>
    have hexec : exec (.resumeArrival i e) s =
        .next (s.concluded ⟨i, e, .hold .resume⟩ ((s.met ⟨i, e, .hold .resume⟩).resumeRule i)) := exec_of_heard rfl h
    obtain ⟨hepoch, hbase, hfront, hgather, hexpired, hannounce, hgatherTimer, hsettle⟩ :=
      State.concluded_holdersApart ((s.met ⟨i, e, .hold .resume⟩).resumeRule_apart i)
    have hrequests := Requests.resumeRule (s.met ⟨i, e, .hold .resume⟩) i
    refine ⟨_, hexec, State.Hears.heardFrame h hrequests (Nat.zero_le _), fun j => ?_, ?_,
      fun hi hothers hrising hgathered hblocking hlen => ?_, hepoch, hbase, hfront, hgather, hexpired, hannounce,
      hgatherTimer, hsettle, fun j => ?_, by simp, by simp, by simp⟩
    · rw [State.concluded_dvu, State.resumeRule_holdSet]
      simp
    · rw [State.concluded_dvu, State.resumeRule_holdLimit]
      simp
    · set u := (s.met ⟨i, e, .hold .resume⟩).resumeRule i with hu
      have hholds : ∀ j : StationId, u.dvu.holdSet[j] = (s.dvu.holdSet[j] && decide (j ≠ i)) := fun j => by
        rw [hu, State.resumeRule_holdSet]
        simp
      have hmet := State.Hears.met_length h
      have hgrown := hrequests.queue.length
      rw [List.length_nil] at hgrown
      have hrecords : u.dvu.records = (s.hear i).dvu.records := by
        rw [hu, State.resumeRule_records, State.met_dvu]
      rw [State.concluded_dvu] at hfront hgather hexpired
      have hunblocked : u.dvu.someBlocking = false := by
        rw [Dvu.someBlocking, hrecords, hfront, ← hblocking, ← s.hear_someBlocking i, Dvu.someBlocking,
          State.hear_dvu_front]
      have hchanged : s.dvu.holdSet ≠ u.dvu.holdSet := fun hc => by
        have hgone := hholds i
        rw [← hc, hi] at hgone
        simp at hgone
      have hclear : ∀ j : StationId, u.dvu.holdSet[j] = false := fun j => by
        rw [hholds]
        by_cases hj : j = i
        · simp [hj]
        · simp [hothers j hj]
      obtain ⟨o, n, hm⟩ := State.advance_pending (u := u) s.dvu hchanged (by simp [hu, State.Hears.member h])
        (by rwa [hfront]) hclear (by rwa [hgather, hexpired]) hunblocked (show _ < 12 by omega)
      exact ⟨o, n, State.mem_concluded (by omega) hm ⟨nofun, nofun⟩⟩
    · rw [State.concluded_record, State.resumeRule_record, State.met_record]

end Sys2Proof.Machine

/-!
The rules of the two lapses (R21, R22, R43) and of ADVANCE (R33, R34): what each makes of the view and the board, and what
the arrival of its frame leaves.
-/

namespace Sys2Proof.Machine

variable {s : State} {f : Frame}

/-! ### LAPSE(RANK-TIMEOUT) (R43) -/

theorem State.rankTimeoutRule_of_front {u : State} {i : StationId} {e : Epoch} {k : Rank} (he : e = u.dvu.epoch)
    (hf : u.dvu.front = .rank k) :
    u.rankTimeoutRule i e k = (u.setDvu (u.dvu.markLate.startSettle u.profile)).evalAdvance :=
  if_pos ⟨(u.judge_equal_iff i e).2 he, hf⟩

theorem State.rankTimeoutRule_of_other {u : State} {i : StationId} {e : Epoch} {k : Rank}
    (h : ¬(e = u.dvu.epoch ∧ u.dvu.front = .rank k)) : u.rankTimeoutRule i e k = u :=
  if_neg fun hc => h ⟨(u.judge_equal_iff i e).1 hc.1, hc.2⟩

theorem Dvu.markLate_record (d : Dvu) (p : Profile) (j : StationId) : (d.markLate.startSettle p).records[j] =
    if (d.records[j]).blocking d.front then { d.records[j] with late := true } else d.records[j] := by
  simp only [Dvu.startSettle_records, Dvu.markLate, mapTable_fin]

/-- R27: which records block under a front that is a rank. -/
theorem Record.blocking_rank (r : Record) (k : Rank) : r.blocking (.rank k) = true ↔
    r.present = true ∧ r.rank ≤ k ∧ r.ready = false ∧ r.late = false ∧ r.board ≠ .excluded := by
  rw [Record.blocking_iff, show frontValue (.rank k) = (k.val : Int) from rfl, Int.ofNat_le]
  exact Iff.rfl

theorem State.rankTimeoutRule_apart (u : State) (i : StationId) (e : Epoch) (k : Rank) :
    SameDomain u.dvu (u.rankTimeoutRule i e k).dvu ∧ (u.rankTimeoutRule i e k).dvu.announce = u.dvu.announce ∧
    (u.rankTimeoutRule i e k).dvu.gatherTimer = u.dvu.gatherTimer ∧
    (u.rankTimeoutRule i e k).dvu.holdLimit = u.dvu.holdLimit := by
  unfold State.rankTimeoutRule
  split
  · simp only [State.evalAdvance_dvu]
    exact ⟨⟨rfl, rfl, rfl, rfl, rfl, rfl⟩, rfl, rfl, rfl⟩
  · exact ⟨⟨rfl, rfl, rfl, rfl, rfl, rfl⟩, rfl, rfl, rfl⟩

/-! ### LAPSE(MEMBER-SILENT) (R8, R21, R22) -/

theorem State.memberSilentRule_of_own {u : State} {i k : StationId} {e : Epoch} (he : e = u.dvu.epoch)
    (hk : k = u.self) : u.memberSilentRule i e k = u.request .announce := by
  rw [State.memberSilentRule, if_pos ((u.judge_equal_iff i e).2 he), if_pos hk]

theorem State.memberSilentRule_of_present {u : State} {i k : StationId} {e : Epoch} (he : e = u.dvu.epoch)
    (hk : k ≠ u.self) (hp : (u.record k).present = true) :
    u.memberSilentRule i e k = (u.updateRecord k Record.leave).removeHold k := by
  rw [State.memberSilentRule, if_pos ((u.judge_equal_iff i e).2 he), if_neg hk, State.removeMember, if_pos hp]

theorem State.memberSilentRule_dvu_of_other {u : State} {i k : StationId} {e : Epoch}
    (h : e ≠ u.dvu.epoch ∨ k = u.self ∨ (u.record k).present = false) : (u.memberSilentRule i e k).dvu = u.dvu := by
  unfold State.memberSilentRule
  by_cases he : e = u.dvu.epoch
  · rw [if_pos ((u.judge_equal_iff i e).2 he)]
    by_cases hk : k = u.self
    · rw [if_pos hk, State.request_dvu]
    · have habsent : (u.record k).present = false := (h.resolve_left fun hn => hn he).resolve_left hk
      rw [if_neg hk, State.removeMember, if_neg (by simp [habsent])]
  · rw [if_neg fun hj => he ((u.judge_equal_iff i e).1 hj)]

theorem State.memberSilentRule_apart (u : State) (i : StationId) (e : Epoch) (k : StationId) :
    HoldersApart u.dvu (u.memberSilentRule i e k).dvu ∧ (u.memberSilentRule i e k).dvu.holdLimit = u.dvu.holdLimit := by
  unfold State.memberSilentRule
  split
  · split
    · exact ⟨by constructor <;> simp, by simp⟩
    · exact ⟨by constructor <;> simp, by simp⟩
  · exact ⟨by constructor <;> rfl, rfl⟩

/-- R8, R21: the records and holds of the stations that are not the subject. -/
theorem State.memberSilentRule_others (u : State) (i : StationId) (e : Epoch) {j k : StationId} (hj : j ≠ k) :
    (u.memberSilentRule i e k).record j = u.record j ∧
    (u.memberSilentRule i e k).dvu.holdSet[j] = u.dvu.holdSet[j] := by
  by_cases h : e ≠ u.dvu.epoch ∨ k = u.self ∨ (u.record k).present = false
  · rw [State.record, State.memberSilentRule_dvu_of_other h]
    exact ⟨rfl, rfl⟩
  · simp only [not_or, not_not, Bool.not_eq_false] at h
    obtain ⟨he, hk, hp⟩ := h
    rw [State.memberSilentRule_of_present he hk hp, holdSet_removeHold, if_neg hj]
    refine ⟨?_, by simp⟩
    exact (record_updateRecord u k j Record.leave).trans (if_neg hj)

/-- Settles O35: by what each of the two lapses finds in the view. -/
theorem lapsesMarkOrRemove : Obligations.LapsesMarkOrRemove := by
  refine ⟨fun s i e k h => ?timeout, fun s i e k h => ?silent⟩
  case timeout =>
    have hexec : exec (.rankTimeoutArrival i e k) s =
        .next (s.concluded ⟨i, e, .rankTimeout k⟩ ((s.met ⟨i, e, .rankTimeout k⟩).rankTimeoutRule i e k)) :=
      exec_of_heard rfl h
    obtain ⟨hdomain, hannounce, hgatherTimer, hlimit⟩ := (s.met ⟨i, e, .rankTimeout k⟩).rankTimeoutRule_apart i e k
    refine ⟨_, hexec, State.Hears.heardFrame h (Requests.rankTimeoutRule _ _ _ _) le_rfl,
      State.concluded_sameDomain hdomain, by simp [hannounce], by simp [hgatherTimer], by simp [hlimit],
      fun he hf => ?accepted, fun hn => ?refused, by simp, by simp, by simp⟩
    case accepted =>
      rw [State.rankTimeoutRule_of_front (by simpa using he) (by simpa using hf)]
      have hrec : ∀ j : StationId, (s.concluded ⟨i, e, .rankTimeout k⟩
          ((s.met ⟨i, e, .rankTimeout k⟩).setDvu ((s.met ⟨i, e, .rankTimeout k⟩).dvu.markLate.startSettle
            (s.met ⟨i, e, .rankTimeout k⟩).profile)).evalAdvance).record j =
          if (s.record j).blocking (.rank k) then { (s.hear i).record j with late := true }
          else (s.hear i).record j := fun j => by
        rw [State.concluded_record, State.record, State.evalAdvance_dvu, State.setDvu_dvu, Dvu.markLate_record,
          State.met_dvu, State.hear_dvu_front, hf, ← s.hear_blocking i j]
        rfl
      refine ⟨by simp [Dvu.startSettle, Dvu.markLate, hf, frontIsRank], fun j => ⟨fun hp hle hr hl hb => ?_, fun hn => ?_⟩⟩
      · rw [hrec, if_pos ((Record.blocking_rank _ k).2 ⟨hp, hle, hr, hl, hb⟩)]
      · rw [hrec, if_neg fun hc => hn ((Record.blocking_rank _ k).1 hc)]
    case refused =>
      rw [State.rankTimeoutRule_of_other (by simpa using hn)]
      exact ⟨by simp, by simp⟩
  case silent =>
    have hexec : exec (.memberSilentArrival i e k) s =
        .next (s.concluded ⟨i, e, .memberSilent k⟩ ((s.met ⟨i, e, .memberSilent k⟩).memberSilentRule i e k)) :=
      exec_of_heard rfl h
    have hmet := State.Hears.met_length h
    obtain ⟨hapart, hlimit⟩ := (s.met ⟨i, e, .memberSilent k⟩).memberSilentRule_apart i e k
    obtain ⟨hepoch, hbase, hfront, hgather, hexpired, hannounce, hgatherTimer, hsettle⟩ :=
      State.concluded_holdersApart hapart
    refine ⟨_, hexec, State.Hears.heardFrame h (Requests.memberSilentRule _ _ _ _) le_rfl, hepoch, hbase, hfront, hgather,
      hexpired, ⟨hannounce, hgatherTimer, hsettle, by simp [hlimit]⟩, fun j hj => ?others, fun he hk hp => ?removed,
      fun hn => ?kept, fun he hk hlen => ?answered, by simp, by simp, by simp⟩
    case others =>
      obtain ⟨hrecord, hhold⟩ := (s.met ⟨i, e, .memberSilent k⟩).memberSilentRule_others i e hj
      rw [State.concluded_record, State.concluded_dvu, hrecord, hhold]
      exact ⟨by simp, by simp⟩
    case removed =>
      rw [State.memberSilentRule_of_present (by simpa using he) (by simpa using hk) (by simpa [State.hear_present] using hp),
        State.concluded_record, State.concluded_dvu, holdSet_removeHold, if_pos rfl]
      refine ⟨rfl, ((record_updateRecord _ k k Record.leave).trans (if_pos rfl)).trans ?_⟩
      rw [State.met_record, State.hear_record]
      split <;> rfl
    case kept =>
      rw [State.concluded_record, State.concluded_dvu, State.record,
        State.memberSilentRule_dvu_of_other (by simpa [State.hear_present] using hn), State.met_dvu]
      exact ⟨rfl, by simp⟩
    case answered =>
      exact State.announce_mem_concluded (State.memberSilentRule_of_own (by simpa using he) (by simpa using hk))
        (hmet.trans hlen)

end Sys2Proof.Machine

/-!
The rule of ADVANCE (R33 to R35): the front moved or left, the release and the advance condition evaluated.
-/

namespace Sys2Proof.Machine

variable {s : State}

/-- R33: the view and the board once an accepted ADVANCE has moved the front. -/
def State.advanced (u : State) (new : Front) : State := (u.setDvu (u.dvu.advanceTo new u.profile)).evalRelease

theorem State.acceptsAdvance_iff (u : State) (i : StationId) (e : Epoch) (old new : Front) :
    u.acceptsAdvance i e old new = true ↔ e = u.dvu.epoch ∧ (∀ j : StationId, u.dvu.holdSet[j] = false) ∧
      old = u.dvu.front ∧ frontValue old < frontValue new := by
  simp only [State.acceptsAdvance, Bool.and_eq_true, beq_iff_eq, decide_eq_true_eq, State.judge_equal_iff,
    holdClear_iff, and_assoc]

theorem State.advanceRule_accepted {u : State} {i : StationId} {e : Epoch} {old new : Front}
    (h : u.acceptsAdvance i e old new = true) : u.advanceRule i e old new = (u.advanced new).evalAdvance := if_pos h

theorem State.advanceRule_refused {u : State} {i : StationId} {e : Epoch} {old new : Front}
    (h : ¬u.acceptsAdvance i e old new = true) : u.advanceRule i e old new = u.evalAdvance := if_neg h

theorem State.advanced_view (u : State) (new : Front) :
    (u.advanced new).dvu.front = new ∧ (u.advanced new).dvu.gather = false ∧
    (u.advanced new).dvu.gatherTimer = .stopped ∧
    (u.advanced new).dvu.settle = (if frontIsRank new then .running (settleInterval u.profile) else .stopped) := by
  simp [State.advanced, Dvu.advanceTo, Dvu.startSettle]

theorem State.advanced_others (u : State) (new : Front) {j : StationId} (hj : j ≠ u.self) :
    (u.advanced new).record j = u.record j :=
  (State.evalRelease_others (u.setDvu (u.dvu.advanceTo new u.profile))).others j hj

/-- R9, R71: the own record after the release that a new front may bring. -/
theorem State.advanced_own {u : State} (h : ViewSound u) (hm : u.stc.station = .member) (new : Front) :
    (u.advanced new).record u.self = { u.record u.self with board := (u.advanced new).bsu.board } := by
  obtain ⟨hpresent, hrank, hboard, hbudget, hlog, hsilence⟩ := h.own hm
  exact State.evalRelease_own (s := u.setDvu (u.dvu.advanceTo new u.profile)) hm
    ⟨hpresent, hrank, hboard, hbudget, hlog, hsilence⟩ fun hr => hboard ▸ (h.records u.self).ready hr

/-- What ADVANCE touches in no case: the epoch, the base, the holds and the timers apart. -/
theorem State.advanceRule_apart (u : State) (i : StationId) (e : Epoch) (old new : Front) :
    (u.advanceRule i e old new).dvu.epoch = u.dvu.epoch ∧ (u.advanceRule i e old new).dvu.base = u.dvu.base ∧
    (u.advanceRule i e old new).dvu.gatherExpired = u.dvu.gatherExpired ∧
    (u.advanceRule i e old new).dvu.holdSet = u.dvu.holdSet ∧
    (u.advanceRule i e old new).dvu.announce = u.dvu.announce ∧
    (u.advanceRule i e old new).dvu.holdLimit = u.dvu.holdLimit ∧
    ∀ j : StationId, j ≠ u.self → (u.advanceRule i e old new).record j = u.record j := by
  by_cases h : u.acceptsAdvance i e old new = true
  · rw [State.advanceRule_accepted h]
    refine ⟨?_, ?_, ?_, ?_, ?_, ?_, fun j hj => ?_⟩
    case refine_7 =>
      rw [State.record, State.evalAdvance_dvu]
      exact u.advanced_others new hj
    all_goals simp [State.advanced, Dvu.advanceTo, Dvu.startSettle]
  · rw [State.advanceRule_refused h]
    simp [State.record]

/-- R9: at a MEMBER hearing its own frame leaves the own record as it is. -/
theorem State.hear_own {s : State} (h : ViewSound s) (hm : s.stc.station = .member) (i : StationId) :
    (s.hear i).record s.self = s.record s.self := by
  have hsilence := (h.own hm).silence
  rw [State.hear_record]
  split
  · rw [← hsilence]
  · rfl

theorem State.met_view (h : ViewSound s) (f : Frame) : ViewSound (s.met f) :=
  (hear_view h f.sender).of_same_dvu (by simp) (by simp) (by simp) (by simp) (by simp) (by simp)

/-- R163: no ADVANCE that waited is left when the rule of ADVANCE is applied. -/
theorem State.Hears.no_advance {i : StationId} {e : Epoch} {old new : Front} (h : s.Hears ⟨i, e, .advance old new⟩)
    (o n : Front) : .advance o n ∉ (s.met ⟨i, e, .advance old new⟩).txq.entries := fun hm =>
  ((h.mem_met _).1 hm).2.2 rfl

/-- R31, R163: an ADVANCE pending after the rule has the fields of the moment. -/
theorem State.mem_evalAdvance_advance {u : State} {o n : Front} (h : .advance o n ∈ u.evalAdvance.txq.entries)
    (hnone : .advance o n ∉ u.txq.entries) : o = u.dvu.front ∧ n = u.dvu.nextFront := by
  have hsettled : .advance o n ∈ (u.settleTerms { u.dvu with gather := !u.dvu.gather }).txq.entries := by
    rwa [State.settleTerms, if_pos (by simp [termsChanged])]
  rcases State.mem_settleTerms_advance _ hsettled with hold | hnew
  · exact absurd hold hnone
  · cases hnew
    exact ⟨rfl, rfl⟩

/-- R31: an ADVANCE in the end has the fields of the view in the end, where the rule has ended in an evaluation. -/
theorem State.advance_of_concluded {u : State} {f : Frame} {o n : Front}
    (h : .advance o n ∈ (s.concluded f u.evalAdvance).txq.entries) (hnone : ∀ o n, .advance o n ∉ u.txq.entries) :
    o = u.dvu.front ∧ n = u.dvu.nextFront := by
  rcases State.mem_settleTerms_advance _ (State.mem_of_mem_concluded h ⟨nofun, nofun⟩) with hold | hnew
  · exact State.mem_evalAdvance_advance hold (hnone o n)
  · cases hnew
    simp

/-- Settles O34: by `State.acceptsAdvance_iff`, at the state that has been heard. -/
theorem advanceIsAcceptedOrRefused : Obligations.AdvanceIsAcceptedOrRefused := by
  intro s i e old new h
  set f : Frame := ⟨i, e, .advance old new⟩ with hf
  have hexec : exec (.advanceArrival i e old new) s =
      .next (s.concluded f ((s.met f).advanceRule i e old new)) := exec_of_heard rfl h
  obtain ⟨hepoch, hbase, hexpired, hholds, hannounce, hlimit, hothers⟩ := (s.met f).advanceRule_apart i e old new
  have haccepts : (s.met f).acceptsAdvance i e old new = true ↔ e = s.dvu.epoch ∧
      (∀ j : StationId, s.dvu.holdSet[j] = false) ∧ old = s.dvu.front ∧ frontValue old < frontValue new := by
    rw [State.acceptsAdvance_iff]
    simp
  have hm : s.stc.station = .member := State.Hears.member h
  refine ⟨_, hexec, State.Hears.heardFrame h (Requests.advanceRule _ _ _ _ _) le_rfl, by simp [hepoch], by simp [hbase],
    by simp [hexpired], by simp [hholds], by simp [hannounce], by simp [hlimit], fun j hj => ?others,
    fun he hclear hold hlt => ?accepted, fun hn => ?refused, fun o n hmem => ?queue, by simp, by simp⟩
  case others =>
    rw [State.concluded_record, hothers j (by simpa using hj), State.met_record]
  case accepted =>
    obtain ⟨hfront, hgather, hgatherTimer, hsettle⟩ := (s.met f).advanced_view new
    rw [State.advanceRule_accepted (haccepts.2 ⟨he, hclear, hold, hlt⟩)]
    refine ⟨by simp [hfront], by simp [hgather], by simp [hgatherTimer], ?settle, ?release, fun hview => ?own⟩
    case settle =>
      rw [State.concluded_dvu, State.evalAdvance_dvu, hsettle, State.met_profile]
      cases new <;> rfl
    case release =>
      have hreleased := State.evalRelease_evaluated ((s.met f).setDvu ((s.met f).dvu.advanceTo new (s.met f).profile))
      rw [State.setDvu_bsu, State.met_bsu] at hreleased
      exact hreleased.of_same (by simp [State.advanced]) (by simp [State.advanced]) (by simp [State.advanced])
        (by simp [State.advanced])
    case own =>
      have hown := State.advanced_own (State.met_view hview f) (by simpa using hm) new
      rw [State.met_self, State.met_record, hf, State.hear_own hview hm] at hown
      simpa [State.record] using hown
  case refused =>
    rw [State.advanceRule_refused fun hc => hn (haccepts.1 hc)]
    simp [State.record, hf]
  case queue =>
    rw [State.concluded_dvu]
    have hnone := State.Hears.no_advance h
    by_cases haccept : (s.met f).acceptsAdvance i e old new = true
    · rw [State.advanceRule_accepted haccept] at hmem ⊢
      rw [State.evalAdvance_dvu]
      exact State.advance_of_concluded hmem fun o n => by simpa [State.advanced] using hnone o n
    · rw [State.advanceRule_refused haccept] at hmem ⊢
      rw [State.evalAdvance_dvu]
      exact State.advance_of_concluded hmem hnone

end Sys2Proof.Machine

/-!
Arrivals that the station does not follow (R17, R53, R54): an ANNOUNCE that only refreshes its sender, and a FAULT that
rewinds nothing.
-/

namespace Sys2Proof.Machine

variable {s : State}

/-! ### The refresh (R17) -/

/-- R8, R17: a record after a refresh from another station. -/
theorem Record.refreshed_joined (r : Record) (e : Epoch) (a : AnnounceFields) : (r.joinIfAbsent e).refreshed a =
    { present := true, rank := a.senderRank, board := a.board, ready := r.ready && a.board == .ready
      late := r.present && r.late, silence := if r.present then r.silence else 0
      joined := if r.present then r.joined else e, disagree := r.present && r.disagree
      budget := a.budget, logPending := a.logPending } := by
  cases h : r.present <;> simp [Record.joinIfAbsent, Record.join, Record.refreshed, h]

theorem State.refresh_record {u : State} {i : StationId} (hi : i ≠ u.self) (a : AnnounceFields) (j : StationId) :
    (u.refresh i a).record j =
      if j = i then ((u.record i).joinIfAbsent u.dvu.epoch).refreshed a else u.record j := by
  rw [State.refresh, record_updateRecord]
  simp [hi]

theorem State.announceRule_older {u : State} {i : StationId} {e : Epoch} (h : u.judge i e = .older)
    (a : AnnounceFields) : u.announceRule i e a = (u.refresh i a).request .announce := by
  rw [State.announceRule, h]

theorem State.announceRule_left {u : State} {i : StationId} {e : Epoch} {a : AnnounceFields} (h : u.judge i e = .newer)
    (ha : a.gather = true) (hg : u.dvu.gather = false) : u.announceRule i e a = u.refresh i a := by
  rw [State.announceRule, h]
  simp [ha, hg]

@[simp] theorem State.met_judge (s : State) (f : Frame) (i : StationId) (e : Epoch) :
    (s.met f).judge i e = compareEpoch e s.dvu.epoch i s.self := by
  simp [State.judge]

/-- A rule that has refreshed the sender, or asked for an ANNOUNCE besides. -/
theorem State.refreshed_of_unadopted {u : State} {i : StationId} {e : Epoch} {a : AnnounceFields}
    (h : u.judge i e = .older ∨ (u.judge i e = .newer ∧ a.gather = true ∧ u.dvu.gather = false)) :
    (u.announceRule i e a).dvu = (u.refresh i a).dvu ∧ (u.announceRule i e a).bsu = u.bsu ∧
    (u.announceRule i e a).clg = u.clg ∧ (u.announceRule i e a).lpt = u.lpt ∧
    ∃ l : List Key, Requests u (u.announceRule i e a) l ∧ l.length ≤ 1 := by
  rcases h with h | ⟨h, ha, hg⟩
  · rw [State.announceRule_older h]
    exact ⟨by simp, by simp, by simp, by simp, _, (Requests.refresh u i a).trans (Requests.request _ _), le_rfl⟩
  · rw [State.announceRule_left h ha hg]
    exact ⟨rfl, by simp, by simp, by simp, _, Requests.refresh u i a, Nat.zero_le _⟩

theorem State.refresh_apart (u : State) (i : StationId) (a : AnnounceFields) :
    SameDomain u.dvu (u.refresh i a).dvu ∧ SameTimers u.dvu (u.refresh i a).dvu :=
  ⟨by constructor <;> simp, by constructor <;> simp⟩

/-- R31: without a request for it, no ANNOUNCE comes. -/
theorem State.Hears.announce_of_concluded {f : Frame} (h : s.Hears f) {u : State}
    (hu : ∀ e ∈ u.txq.entries, e.key ≠ .advance → e ∈ (s.met f).txq.entries)
    (hm : .announce ∈ (s.concluded f u).txq.entries) : .announce ∈ s.txq.entries :=
  h.mem_of_mem_met (hu _ (State.mem_of_mem_settleTerms _ (State.mem_of_mem_concluded hm ⟨nofun, nofun⟩) nofun) nofun)

/-- Settles O32: the refresh of a sender that has been heard, and the ANNOUNCE asked for at an older epoch. -/
theorem unadoptedAnnounceRefreshesPresence : Obligations.UnadoptedAnnounceRefreshesPresence := by
  intro s i e a h hjudge
  set f : Frame := ⟨i, e, .announce a⟩ with hf
  have hheard : s.Hears f := .inl h
  have hexec : exec (.announceArrival i e a) s = .next (s.concluded f ((s.met f).announceRule i e a)) :=
    exec_of_heard rfl hheard
  have hi : i ≠ s.self := h.other
  obtain ⟨hdvu, hbsu, hclg, hlpt, l, hrequests, hl⟩ :=
    State.refreshed_of_unadopted (u := s.met f) (i := i) (e := e) (a := a) (by simpa using hjudge)
  obtain ⟨hdomain, htimers⟩ := (s.met f).refresh_apart i a
  have hrec : ∀ j : StationId, (s.concluded f ((s.met f).announceRule i e a)).record j =
      if j = i then (((s.hear i).record i).joinIfAbsent s.dvu.epoch).refreshed a else (s.hear i).record j := fun j => by
    rw [State.concluded_record, State.record, hdvu]
    refine (State.refresh_record (u := s.met f) (by simpa using hi) a j).trans ?_
    simp [hf]
  refine ⟨_, hexec, hheard.heardFrame hrequests hl, State.concluded_sameDomain (hdvu ▸ hdomain),
    State.concluded_sameTimers (hdvu ▸ htimers), fun j hj => ?others, ?sender, fun hold hlen => ?answered,
    fun hnew hm => ?unanswered, by simp [hbsu], by simp [hclg], by simp [hlpt]⟩
  case others => rw [hrec, if_neg hj, State.hear_record_other hj]
  case sender =>
    rw [hrec, if_pos rfl, Record.refreshed_joined]
    cases hp : (s.record i).present with
    | true => simp [State.hear_record_present hp, hp]
    | false => simp [State.hear_record_absent hp, hp]
  case answered =>
    have hrule := State.announceRule_older (u := s.met f) (i := i) (e := e) (by simpa using hold) a
    exact State.announce_mem_concluded hrule (by simpa using hheard.met_length.trans hlen)
  case unanswered =>
    obtain ⟨-, ha, hg⟩ := hjudge.resolve_left fun hold => by
      rw [hold] at hnew
      cases hnew
    rw [State.announceRule_left (by simpa using hnew) ha (by simpa using hg)] at hm
    exact hheard.announce_of_concluded (fun x hx _ => by simpa using hx) hm

/-! ### FAULTs that rewind nothing (R53, R54) -/

theorem faultRewind_local {f : FaultFields} (hc : f.cause ≠ .start) (hs : f.scope = .local) : faultRewind f = none := by
  rw [faultRewind, if_neg hc, hs]

theorem State.faultRule_local {u : State} {i : StationId} {e : Epoch} {f : FaultFields} (h : u.judge i e = .equal)
    (hc : f.cause ≠ .start) (hs : f.scope = .local) :
    u.faultRule i e f = (u.markLocal i f.senderRank).evalAdvance := by
  rw [State.faultRule, h]
  show u.applyFault i f = _
  rw [State.applyFault, faultRewind_local hc hs]

theorem State.faultRule_older {u : State} {i : StationId} {e : Epoch} (h : u.judge i e = .older) (f : FaultFields) :
    u.faultRule i e f = u.request .announce := by
  rw [State.faultRule, h]

theorem State.faultRule_newer {u : State} {i : StationId} {e : Epoch} (h : u.judge i e = .newer) (f : FaultFields) :
    u.faultRule i e f = u := by
  rw [State.faultRule, h]

/-- R54: the records after a LOCAL FAULT. -/
theorem State.markLocal_record (u : State) (i : StationId) (k : Rank) (j : StationId) : (u.markLocal i k).record j =
    if j = i ∧ i ≠ u.self ∧ (u.record i).present = true then
      { u.record j with rank := k, board := .recover, ready := false } else u.record j := by
  unfold State.markLocal
  by_cases hi : i = u.self
  · simp [hi]
  · rw [if_neg hi, record_updateRecord]
    by_cases hj : j = i
    · subst hj
      simp [hi]
    · simp [hj]

theorem State.markLocal_apart (u : State) (i : StationId) (k : Rank) :
    SameDomain u.dvu (u.markLocal i k).dvu ∧ SameTimers u.dvu (u.markLocal i k).dvu :=
  ⟨by constructor <;> simp, by constructor <;> simp⟩

/-- What the rule of a FAULT that rewinds nothing makes of the view: the mark of a LOCAL one, or nothing. -/
structure FaultLeft (u : State) (i : StationId) (e : Epoch) (f : FaultFields) (v : State) : Prop where
  domain  : SameDomain u.dvu v.dvu ∧ SameTimers u.dvu v.dvu
  records : ∀ j : StationId, v.record j =
    if e = u.dvu.epoch ∧ j = i ∧ i ≠ u.self ∧ (u.record i).present = true then
      { u.record j with rank := f.senderRank, board := .recover, ready := false } else u.record j
  blocks  : v.bsu = u.bsu ∧ v.clg = u.clg ∧ v.lpt = u.lpt
  asked   : ∃ l : List Key, Requests u v l ∧ l.length ≤ 1

theorem State.faultRule_left {u : State} {i : StationId} {e : Epoch} {f : FaultFields}
    (h : e = u.dvu.epoch → f.cause ≠ .start ∧ f.scope = .local) : FaultLeft u i e f (u.faultRule i e f) := by
  cases hj : u.judge i e with
  | equal =>
    have he := (u.judge_equal_iff i e).1 hj
    obtain ⟨hc, hs⟩ := h he
    obtain ⟨hdomain, htimers⟩ := u.markLocal_apart i f.senderRank
    rw [State.faultRule_local hj hc hs]
    refine ⟨?_, fun j => ?_, by simp, _, (Requests.evalAdvance _).from_same (by simp) (by simp), le_rfl⟩
    · rw [State.evalAdvance_dvu]
      exact ⟨hdomain, htimers⟩
    · rw [State.record, State.evalAdvance_dvu]
      refine (u.markLocal_record i f.senderRank j).trans ?_
      simp [he]
  | older =>
    have hne : e ≠ u.dvu.epoch := fun he => by simp [(u.judge_equal_iff i e).2 he] at hj
    rw [State.faultRule_older hj]
    refine ⟨?_, fun j => ?_, by simp, _, Requests.request u _, le_rfl⟩
    · rw [State.request_dvu]
      exact ⟨⟨rfl, rfl, rfl, rfl, rfl, rfl⟩, ⟨rfl, rfl, rfl, rfl⟩⟩
    · simp [State.record, hne]
  | newer =>
    have hne : e ≠ u.dvu.epoch := fun he => by simp [(u.judge_equal_iff i e).2 he] at hj
    rw [State.faultRule_newer hj]
    exact ⟨⟨⟨rfl, rfl, rfl, rfl, rfl, rfl⟩, ⟨rfl, rfl, rfl, rfl⟩⟩, fun j => by simp [hne], ⟨rfl, rfl, rfl⟩, _,
      Requests.refl u, Nat.zero_le _⟩

/-- Settles O37: `State.faultRule_left` at the state that has been heard. -/
theorem otherFaultsDoNotRewind : Obligations.OtherFaultsDoNotRewind := by
  intro s i e c h hlocal
  set f : Frame := ⟨i, e, .fault c⟩ with hf
  have hheard : s.Hears f := h
  have hexec : exec (.faultArrival i e c) s = .next (s.concluded f ((s.met f).faultRule i e c)) :=
    exec_of_heard rfl hheard
  obtain ⟨⟨hdomain, htimers⟩, hrecords, ⟨hbsu, hclg, hlpt⟩, l, hrequests, hl⟩ :=
    State.faultRule_left (u := s.met f) (i := i) (e := e) (f := c) (by simpa using hlocal)
  have hrec : ∀ j : StationId, (s.concluded f ((s.met f).faultRule i e c)).record j =
      if e = s.dvu.epoch ∧ j = i ∧ i ≠ s.self ∧ (s.record i).present = true then
        { (s.hear i).record j with rank := c.senderRank, board := .recover, ready := false }
      else (s.hear i).record j := fun j => by
    rw [State.concluded_record, hrecords]
    simp [hf, State.hear_present]
  refine ⟨_, hexec, hheard.heardFrame hrequests hl, State.concluded_sameDomain hdomain,
    State.concluded_sameTimers htimers, fun j hj => ?others, fun he hi hp => ?marked, fun hn => ?left,
    fun hold hlen => ?answered, fun hnew hm => ?unanswered, by simp [hbsu], by simp [hclg], by simp [hlpt]⟩
  case others => rw [hrec, if_neg fun hc => hj hc.2.1, State.hear_record_other hj]
  case marked => rw [hrec, if_pos ⟨he, rfl, hi, hp⟩, State.hear_record_present hp]
  case left =>
    rw [hrec, if_neg]
    rintro ⟨he, -, hi, hp⟩
    rcases hn with hn | hn | hn
    · exact hn he
    · exact hi hn
    · simp [hn] at hp
  case answered =>
    exact State.announce_mem_concluded (State.faultRule_older (u := s.met f) (by simpa using hold) c)
      (hheard.met_length.trans hlen)
  case unanswered =>
    rw [State.faultRule_newer (by simpa using hnew)] at hm
    exact hheard.announce_of_concluded (fun x hx _ => hx) hm

end Sys2Proof.Machine

/-!
A FAULT that rewinds (R53, R55 to R59, R164): the rewind of the state that has been heard, and the queue it purges.
-/

namespace Sys2Proof.Machine

variable {s : State} {f : Frame}

/-- A rewind is read off the station, the view and the board alone. -/
theorem Rewound.of_same {u v t : State} {b : Rank} {g : Bool} (h : Rewound u v b g)
    (hu : s.stc = u.stc ∧ s.dvu = u.dvu ∧ s.bsu = u.bsu)
    (hv : t.stc = v.stc ∧ t.dvu = v.dvu ∧ t.bsu = v.bsu) : Rewound s t b g := by
  cases s
  cases t
  cases u
  cases v
  obtain ⟨rfl, rfl, rfl⟩ := hu
  obtain ⟨rfl, rfl, rfl⟩ := hv
  exact ⟨h.epoch, h.base, h.front, h.gather, h.holdSet, h.timers, h.covered, h.below, h.absent, h.own, h.covers,
    fun hb => (h.spared hb).of_same rfl rfl rfl rfl, h.station⟩

/-- R164: a purge after the state has been heard purges what was there before, where the frame cancels no entry but a
lapse. -/
theorem State.Hears.queuePurged (h : s.Hears f) (hc : ∀ k, cancelledKey f.body = some k → ∃ i, k = .memberSilent i)
    {t : State} {b : Rank} (hq : QueuePurged (s.met f) t b) : QueuePurged s t b := by
  obtain ⟨hadvance, hlapse, hready, hfault, hkept, hnothing⟩ := hq
  rw [State.met_rank] at hfault hkept
  have hmet : ∀ e ∈ s.txq.entries, s.txq.inFlight ≠ some e.key → KeptAtRewind b s.rank e → e ∈ (s.met f).txq.entries :=
    fun e he hflight hk => by
      have hlapse : ∀ i, e.key ≠ .memberSilent i := fun i hi => by
        cases e with
        | memberSilent _ => exact hk
        | _ => cases hi
      refine (h.mem_met e).2 ⟨⟨he, fun hown hbody => ?_⟩, hlapse _, fun hkey => ?_⟩
      · rcases h with h | h
        · exact h.other hown
        · exact hflight (hbody ▸ h.flight)
      · obtain ⟨i, hi⟩ := hc _ hkey
        exact hlapse i hi
  refine ⟨hadvance, hlapse, hready, hfault, fun hlen e he hflight hk => ?_, fun e he => ?_⟩
  · exact hkept (h.met_length.trans hlen) e (hmet e he hflight hk) (by simp [h.met_inFlight]) hk
  · exact (hnothing e he).imp_left h.mem_of_mem_met

/-- A rewind ends in an evaluation of the advance condition, and asks for nothing before. -/
theorem State.rewind_evaluated (u : State) (b : Rank) (c : Cause) (r : Option (Option Scope × Option StationId)) :
    ∃ v : State, u.rewind b c r = v.evalAdvance ∧ v.txq.entries.length ≤ u.txq.entries.length := by
  cases r with
  | none => exact ⟨_, State.rewind_none u b c, u.rewound_length b c⟩
  | some p =>
    refine ⟨_, State.rewind_some u b c p.1 p.2, ?_⟩
    rw [State.append_txq]
    exact u.rewound_length b c

/-- R58, R164: the queue after a rewind and the evaluation of the view that it has changed. -/
theorem State.rewind_settled {u : State} (h : u.txq.inFlight = none) (b : Rank) (c : Cause)
    (r : Option (Option Scope × Option StationId)) (d : Dvu) : QueuePurged u ((u.rewind b c r).settleTerms d) b := by
  have hpurged := State.rewind_purged h b c r
  obtain ⟨v, hv, hlen⟩ := u.rewind_evaluated b c r
  rw [hv] at hpurged ⊢
  exact hpurged.settle (fun hroom => by omega) d

/-- R51, R53: the rank that an applied FAULT rewinds to. -/
theorem faultRewind_of_applied {f : FaultFields} {b : Rank}
    (h : ((f.cause = .start ∨ f.scope = .domain) ∧ b = 0) ∨ (f.cause ≠ .start ∧ f.scope = .rank ∧ b = f.rewindRank)) :
    faultRewind f = some b ∧ (f.cause = .start → b = 0) := by
  unfold faultRewind
  rcases h with ⟨hdomain, rfl⟩ | ⟨hcause, hscope, rfl⟩
  · refine ⟨?_, fun _ => rfl⟩
    by_cases hcause : f.cause = .start
    · rw [if_pos hcause]
    · rw [if_neg hcause, hdomain.resolve_left hcause]
  · exact ⟨by rw [if_neg hcause, hscope], fun hstart => absurd hstart hcause⟩

theorem State.faultRule_rewinds {u : State} {i : StationId} {e : Epoch} {f : FaultFields} {b : Rank}
    (he : e = u.dvu.epoch) (hb : faultRewind f = some b) :
    u.faultRule i e f = u.rewind b f.cause (u.rewindRecord i f) := by
  rw [State.faultRule, (u.judge_equal_iff i e).2 he]
  show u.applyFault i f = _
  rw [State.applyFault, hb]

/-- R59: the record of an applied FAULT, at every station but its sender. -/
theorem State.faultRewind_clg (u : State) (i : StationId) (f : FaultFields) (b : Rank) :
    (u.rewind b f.cause (u.rewindRecord i f)).clg = if i = u.self then u.clg
      else u.clg.appended (recordOf f.cause (some f.scope) (some i) (epochSucc u.dvu.epoch) (some b) u.stc.uptime false) := by
  unfold State.rewindRecord
  split
  · exact State.rewind_none_clg u b f.cause
  · exact State.rewind_some_clg ..

/-- Settles O36: `State.rewind_rewound` and `State.rewind_settled` at the state that has been heard. -/
theorem appliedFaultRewinds : Obligations.AppliedFaultRewinds := by
  intro s i c b h hview hb
  set f : Frame := ⟨i, s.dvu.epoch, .fault c⟩ with hf
  have hheard : s.Hears f := h
  obtain ⟨hrewind, hstart⟩ := faultRewind_of_applied hb
  have hrule : (s.met f).faultRule i s.dvu.epoch c = (s.met f).rewind b c.cause ((s.met f).rewindRecord i c) :=
    State.faultRule_rewinds (by simp) hrewind
  have hexec : exec (.faultArrival i s.dvu.epoch c) s =
      .next (s.concluded f ((s.met f).rewind b c.cause ((s.met f).rewindRecord i c))) := hrule ▸ exec_of_heard rfl hheard
  refine ⟨_, hexec, hheard.heardFrame (Requests.rewind _ _ _ _) le_rfl, ?rewound, ?log, fun hother => ?queue⟩
  case rewound =>
    have hrewound := State.rewind_rewound (State.met_view hview f) (by simpa using hheard.member) b c.cause hstart
      ((s.met f).rewindRecord i c)
    exact hrewound.of_same ⟨by simp, by simp [hf], by simp⟩ ⟨by simp, by simp, by simp⟩
  case log =>
    rw [State.concluded_clg, State.faultRewind_clg]
    simp
  case queue =>
    have hconcluded : s.concluded f ((s.met f).rewind b c.cause ((s.met f).rewindRecord i c)) =
        ((s.met f).rewind b c.cause ((s.met f).rewindRecord i c)).settleTerms s.dvu :=
      hother.elim (fun hi => State.concluded_other hi) (fun hr => State.concluded_unremembered hr)
    rw [hconcluded]
    exact hheard.queuePurged nofun (State.rewind_settled hheard.met_inFlight ..)

end Sys2Proof.Machine

/-!
Catch-up (R16, R91, R164): the view of a newer ANNOUNCE taken over, with its records, the board and the queue.
-/

namespace Sys2Proof.Machine

variable {s u : State} {i : StationId} {e : Epoch} {a : AnnounceFields} {b : Rank}

/-! ### The board at a catch-up (R91) -/

theorem State.boardRewind_covered (hb : b ≤ u.rank) (hr : boardRunning u.bsu.board = true) :
    u.boardRewind b = u.contain .held := by
  have hstopped : (u.bsu.contain u.profile .held).holdDown ≠ .expired := nofun
  rw [State.boardRewind, if_pos (decide_eq_true hb), State.holdRunning, if_pos (show u.running = true from hr),
    State.evalRelease, if_neg (by simp [State.releaseCondition, hstopped])]

theorem State.boardRewind_uncovered (h : ¬(b ≤ u.rank ∧ boardRunning u.bsu.board = true)) :
    u.boardRewind b = u.evalRelease := by
  by_cases hb : b ≤ u.rank
  · rw [State.boardRewind, if_pos (decide_eq_true hb), State.holdRunning,
      if_neg (show ¬u.running = true from fun hr => h ⟨hb, hr⟩)]
  · rw [State.boardRewind, if_neg (by simpa using hb)]

theorem State.boardRewind_budget (u : State) (b : Rank) : (u.boardRewind b).bsu.budget = u.bsu.budget := by
  by_cases h : b ≤ u.rank ∧ boardRunning u.bsu.board = true
  · rw [State.boardRewind_covered h.1 h.2, State.contain_bsu]
    rfl
  · rw [State.boardRewind_uncovered h, State.evalRelease_budget]

/-- R9: a release evaluation, at a MEMBER whose own record follows its blocks already. -/
theorem State.evalRelease_follows (h : OnlyOwnFollows u u) : OnlyOwnFollows u u.evalRelease := by
  unfold State.evalRelease
  split
  · exact u.setBsu_follows _
  · exact h

theorem State.boardRewind_follows (h : OnlyOwnFollows u u) (b : Rank) : OnlyOwnFollows u (u.boardRewind b) := by
  by_cases hb : b ≤ u.rank ∧ boardRunning u.bsu.board = true
  · rw [State.boardRewind_covered hb.1 hb.2]
    exact u.contain_follows .held
  · rw [State.boardRewind_uncovered hb]
    exact State.evalRelease_follows h

/-- R9, R10: an own record that shows its blocks follows them. -/
theorem OwnSound.follows (h : OwnSound u) (hr : (u.record u.self).ready = true → u.bsu.board = .ready) :
    OnlyOwnFollows u u where
  others := fun _ _ => rfl
  own := by
    have hready : (u.record u.self).ready = ((u.record u.self).ready && (u.bsu.board == .ready)) := by
      cases hc : (u.record u.self).ready with
      | false => rfl
      | true => simp [hr hc]
    rw [← h.rank, ← h.board, ← h.budget, ← h.logPending]
    rw [← h.board] at hready
    split
    · rw [← hready]
    · rfl

/-- R71: a board that is READY is not touched by a rewind that does not cover it. -/
theorem State.boardRewind_ready (hb : ¬b ≤ u.rank) (hr : u.bsu.board = .ready) : (u.boardRewind b).bsu.board = .ready := by
  rw [State.boardRewind_uncovered fun hc => hb hc.1, State.evalRelease, if_neg (by simp [hr])]
  exact hr

/-! ### The view and the records taken over (R16) -/

/-- R16: a record at a catch-up to the base `b`, before the sender's fields. -/
def Record.caughtUp (r : Record) (b : Rank) : Record :=
  if r.present then { r with late := false, ready := r.ready && !decide (b ≤ r.rank) } else r

/-- R16: the state of catch-up before the board. -/
def State.caughtUp (u : State) (i : StationId) (e : Epoch) (a : AnnounceFields) : State :=
  ((u.setDvu (u.dvu.catchUp e a u.profile)).applyAnnounce i a).reconcile i a.holding

/-- R16, R164, R180: the state of catch-up once the ANNOUNCE has been asked for and the record appended. -/
def State.catchUpAsked (u : State) (i : StationId) (e : Epoch) (a : AnnounceFields) : State :=
  ((((u.caughtUp i e a).boardRewind a.base).purge a.base).request .announce).append .catchUp none (some i) (some a.base)

theorem State.catchUp_eq (u : State) (i : StationId) (e : Epoch) (a : AnnounceFields) :
    u.catchUp i e a = (u.catchUpAsked i e a).evalAdvance := rfl

theorem State.caughtUp_frame (u : State) (i : StationId) (e : Epoch) (a : AnnounceFields) :
    (u.caughtUp i e a).stc = u.stc ∧ (u.caughtUp i e a).bsu = u.bsu ∧ (u.caughtUp i e a).clg = u.clg ∧
    (u.caughtUp i e a).qru = u.qru := by
  simp [State.caughtUp]

theorem Dvu.catchUp_record (d : Dvu) (e : Epoch) (a : AnnounceFields) (p : Profile) (j : StationId) :
    (d.catchUp e a p).records[j] = (d.records[j]).caughtUp a.base := by
  simp only [Dvu.catchUp, Dvu.startGather_records, Dvu.startSettle_records, mapTable_fin]
  rfl

theorem State.caughtUp_record (hi : i ≠ u.self) (e : Epoch) (a : AnnounceFields) (j : StationId) :
    (u.caughtUp i e a).record j =
      if j = i then (((u.record i).caughtUp a.base).joinIfAbsent e).announced a else (u.record j).caughtUp a.base := by
  have hself : (u.setDvu (u.dvu.catchUp e a u.profile)).self = u.self := rfl
  have hepoch : (u.setDvu (u.dvu.catchUp e a u.profile)).dvu.epoch = e := rfl
  rw [State.caughtUp, State.reconcile_record, State.applyAnnounce, record_updateRecord, hself, hepoch, record_setDvu,
    record_setDvu, Dvu.catchUp_record, Dvu.catchUp_record]
  simp only [if_neg hi]
  rfl

/-- R8, R14, R16: the sender's record after a catch-up. -/
theorem Record.caughtUp_announced (r : Record) (b : Rank) (e : Epoch) (a : AnnounceFields) :
    ((r.caughtUp b).joinIfAbsent e).announced a =
      { present := true, rank := a.senderRank, board := a.board, ready := a.board == .ready, late := false
        silence := if r.present then r.silence else 0, joined := if r.present then r.joined else e
        disagree := r.present && r.disagree, budget := a.budget, logPending := a.logPending } := by
  cases h : r.present <;> simp [Record.caughtUp, Record.joinIfAbsent, Record.join, Record.announced, h]

theorem State.reconcile_holdSet (u : State) (i : StationId) (h : Bool) (j : StationId) :
    (u.reconcile i h).dvu.holdSet[j] = if j = i then h else u.dvu.holdSet[j] := by
  cases h with
  | true => exact holdSet_addHold u i j
  | false => exact holdSet_removeHold u i j

theorem State.catchUpAsked_view (u : State) (i : StationId) (e : Epoch) (a : AnnounceFields) :
    (u.catchUpAsked i e a).dvu.epoch = e ∧ (u.catchUpAsked i e a).dvu.base = a.base ∧
    (u.catchUpAsked i e a).dvu.front = a.front ∧ (u.catchUpAsked i e a).dvu.gather = a.gather ∧
    (u.catchUpAsked i e a).dvu.gatherExpired = false ∧ (u.catchUpAsked i e a).dvu.announce = u.dvu.announce ∧
    (u.catchUpAsked i e a).dvu.holdLimit = u.dvu.holdLimit ∧
    (u.catchUpAsked i e a).dvu.gatherTimer = (if a.gather then .running (gatherInterval u.profile) else .stopped) ∧
    (u.catchUpAsked i e a).dvu.settle =
      (if frontIsRank a.front then .running (settleInterval u.profile) else .stopped) ∧
    (u.catchUpAsked i e a).dvu.holdSet = (u.caughtUp i e a).dvu.holdSet := by
  simp [State.catchUpAsked, State.caughtUp, Dvu.catchUp, Dvu.startGather, Dvu.startSettle]
  rfl

theorem State.catchUpAsked_holdSet (u : State) (i : StationId) (e : Epoch) (a : AnnounceFields) (j : StationId) :
    (u.catchUpAsked i e a).dvu.holdSet[j] = if j = i then a.holding else u.dvu.holdSet[j] := by
  obtain ⟨-, -, -, -, -, -, -, -, -, hholds⟩ := u.catchUpAsked_view i e a
  rw [hholds, State.caughtUp, State.reconcile_holdSet]
  simp [Dvu.catchUp]

/-- R9, R16: no other record is touched by the board, the queue and the log. -/
theorem State.catchUpAsked_record (i : StationId) (e : Epoch) (a : AnnounceFields) {j : StationId} (hj : j ≠ u.self) :
    (u.catchUpAsked i e a).record j = (u.caughtUp i e a).record j := by
  obtain ⟨hstc, -⟩ := u.caughtUp_frame i e a
  have hself : (u.caughtUp i e a).self = u.self := by simp [State.self, hstc]
  set x := ((((u.caughtUp i e a).boardRewind a.base).purge a.base).request .announce) with hx
  have hxself : x.self = u.self := by simp [State.self, hx, hstc]
  have happended := (x.append_follows .catchUp none (some i) (some a.base) false).others j (by rwa [hxself])
  have hmoved := ((u.caughtUp i e a).boardRewind_others a.base).others j (by rwa [hself])
  rw [← hmoved]
  refine happended.trans ?_
  simp [State.record, hx]

/-- R9, R16, R91: the own record after a catch-up follows the board and the log. -/
theorem State.catchUpAsked_own (hi : i ≠ u.self) (h : ViewSound u) (hm : u.stc.station = .member) (e : Epoch)
    (a : AnnounceFields) : (u.catchUpAsked i e a).record u.self = { u.record u.self with
      late := false, ready := (u.record u.self).ready && decide (u.rank < a.base)
      board := (u.catchUpAsked i e a).bsu.board, logPending := (u.catchUpAsked i e a).logPending } := by
  obtain ⟨hpresent, hrank, hboard, hbudget, hlog, hsilence⟩ := h.own hm
  obtain ⟨hstc, hbsu, hclg, -⟩ := u.caughtUp_frame i e a
  have hready : (u.record u.self).ready = true → u.bsu.board = .ready := fun hr => hboard ▸ (h.records u.self).ready hr
  have hxrec : (u.caughtUp i e a).record u.self = { u.record u.self with
      late := false, ready := (u.record u.self).ready && !decide (a.base ≤ u.rank) } := by
    rw [State.caughtUp_record hi, if_neg (Ne.symm hi), Record.caughtUp, if_pos hpresent, ← hrank]
  set x := u.caughtUp i e a with hx
  have hself : x.self = u.self := by simp [State.self, hstc]
  have hxrank : x.rank = u.rank := by simp [State.rank, hstc]
  have hfollows : OnlyOwnFollows x x := by
    refine OwnSound.follows ⟨?_, ?_, ?_, ?_, ?_, ?_⟩ fun hr => ?_ <;> rw [hself, hxrec] at *
    · exact hpresent
    · exact hrank.trans (by simp [State.rank, hstc])
    · exact hboard.trans (by rw [hbsu])
    · exact hbudget.trans (by rw [hbsu])
    · exact hlog.trans (by rw [State.logPending, State.logPending, hclg])
    · exact hsilence
    · exact (congrArg Bsu.board hbsu).trans (hready (Bool.and_eq_true_iff.1 hr).1)
  have hboarded : OnlyOwnFollows x (((x.boardRewind a.base).purge a.base).request .announce) :=
    (State.boardRewind_follows hfollows a.base).then_same (by simp) (by simp) (by simp)
  have hall : OnlyOwnFollows x (u.catchUpAsked i e a) :=
    hboarded.trans (State.append_follows _ .catchUp none (some i) (some a.base) false) (by simp)
      (congrArg Bsu.board (State.append_bsu ..))
  have hkept : (u.catchUpAsked i e a).bsu = (x.boardRewind a.base).bsu := by simp [State.catchUpAsked, hx]
  have hbudget' : (u.catchUpAsked i e a).bsu.budget = u.bsu.budget := by rw [hkept, State.boardRewind_budget, hbsu]
  have hsettled : ((u.record u.self).ready && !decide (a.base ≤ u.rank) &&
      ((u.catchUpAsked i e a).bsu.board == .ready)) = ((u.record u.self).ready && decide (u.rank < a.base)) := by
    by_cases hb : a.base ≤ u.rank
    · simp [hb, not_lt.2 hb]
    · cases hr : (u.record u.self).ready with
      | false => rfl
      | true =>
        have hstill := State.boardRewind_ready (u := x) (b := a.base) (by rwa [hxrank]) (by rw [hbsu, hready hr])
        rw [hkept, hstill]
        simp [hb, not_le.1 hb]
  have hown := hall.own
  rw [if_pos (by rw [hstc]; exact hm), hself, hxrec] at hown
  rw [hown]
  simp only [hsettled, hbudget', hbudget, hrank, hxrank]

/-! ### The queue -/

/-- R164: a cancellation of what the purge takes away is no more than the purge. -/
theorem Txq.purge_cancel {q : Txq} (h : q.inFlight = none) {k : Key} {own : Rank}
    (hk : ∀ x : Entry, x.key = k → x.purgedBy b own = true) : (q.cancel k).purge b own = q.purge b own := by
  rw [Txq.cancel_of_none h, Txq.purge, Txq.purge]
  simp only [h, removeKey, List.filter_filter]
  congr 1
  refine List.filter_congr fun x _ => ?_
  by_cases hx : x.key = k
  · simp [hk x hx]
  · simp [hx]

theorem Entry.purgedBy_of_advance (own : Rank) {x : Entry} (h : x.key = .advance) : x.purgedBy b own = true := by
  cases x with
  | advance o n => rfl
  | _ => cases h

theorem Entry.purgedBy_of_ready (own : Rank) {x : Entry} (h : x.key = .ready) : x.purgedBy b own = true := by
  cases x with
  | ready r => rfl
  | _ => cases h

/-- R98, R163: what the reconciliation of a hold does to the queue. -/
theorem State.reconcile_queue (u : State) (i : StationId) (h : Bool) :
    (u.reconcile i h).txq = u.txq ∨ (u.reconcile i h).txq = u.txq.cancel .advance := by
  cases h with
  | false => exact .inl rfl
  | true =>
    show (u.addHold i).txq = u.txq ∨ (u.addHold i).txq = u.txq.cancel .advance
    unfold State.addHold State.freezeIf
    split
    · exact .inr rfl
    · exact .inl rfl

/-- R164: the purge of a catch-up takes away what the hold and the board have cancelled. -/
theorem State.catchUpAsked_txq (h : u.txq.inFlight = none) (i : StationId) (e : Epoch) (a : AnnounceFields) :
    (u.catchUpAsked i e a).txq = ((u.txq.purge a.base u.rank).request .announce).1 := by
  obtain ⟨hstc, -⟩ := u.caughtUp_frame i e a
  have hcaught : (u.caughtUp i e a).txq = u.txq ∨ (u.caughtUp i e a).txq = u.txq.cancel .advance := by
    have hq := ((u.setDvu (u.dvu.catchUp e a u.profile)).applyAnnounce i a).reconcile_queue i a.holding
    simpa [State.caughtUp] using hq
  have hpurge : ∀ q : Txq, q = u.txq ∨ q = u.txq.cancel .advance →
      q.inFlight = none ∧ q.purge a.base u.rank = u.txq.purge a.base u.rank := fun q hq => by
    rcases hq with rfl | rfl
    · exact ⟨h, rfl⟩
    · exact ⟨by rw [Txq.cancel_inFlight, h], Txq.purge_cancel h fun x => Entry.purgedBy_of_advance _⟩
  obtain ⟨hnone, hsame⟩ := hpurge _ hcaught
  have hboard : ((u.caughtUp i e a).boardRewind a.base).txq.purge a.base u.rank = u.txq.purge a.base u.rank := by
    rcases (u.caughtUp i e a).boardRewind_queue a.base with hq | hq <;> rw [hq]
    · exact hsame
    · rw [Txq.purge_cancel hnone fun x => Entry.purgedBy_of_ready _, hsame]
  have hrank : ((u.caughtUp i e a).boardRewind a.base).rank = u.rank := by simp [State.rank, hstc]
  rw [State.catchUpAsked, State.append_txq, State.request_txq, State.purge_txq, hrank, hboard]

theorem State.announceRule_newer (h : u.judge i e = .newer) (ha : a.gather = false ∨ u.dvu.gather = true) :
    u.announceRule i e a = u.catchUp i e a := by
  rw [State.announceRule, h]
  exact if_pos (by rcases ha with ha | ha <;> simp [ha])

/-- Settles O31: catch-up from the state that has been heard; the view, the records, the board, the queue and the log. -/
theorem newerAnnounceCatchesUp : Obligations.NewerAnnounceCatchesUp := by
  intro s i e a h hnewer hgathered
  set f : Frame := ⟨i, e, .announce a⟩ with hf
  have hheard : s.Hears f := .inl h
  have hi : i ≠ s.self := h.other
  have hi' : i ≠ (s.met f).self := by simpa using hi
  have hrule : (s.met f).announceRule i e a = ((s.met f).catchUpAsked i e a).evalAdvance :=
    State.announceRule_newer (by simpa using hnewer) (by simpa using hgathered)
  have hexec : exec (.announceArrival i e a) s =
      .next ((((s.met f).catchUpAsked i e a).evalAdvance).settleTerms s.dvu) := by
    rw [← State.concluded_other h.other, ← hrule]
    exact exec_of_heard rfl hheard
  obtain ⟨hepoch, hbase, hfront, hgather, hexpired, hannounce, hlimit, hgatherTimer, hsettle, -⟩ :=
    (s.met f).catchUpAsked_view i e a
  obtain ⟨hstc, hbsu, hclg, hqru⟩ := (s.met f).caughtUp_frame i e a
  have hrequests := Requests.catchUp (s.met f) i e a
  have hmet := hheard.met_length
  have htxq := State.catchUpAsked_txq hheard.met_inFlight i e a
  have hpurge : ((s.met f).txq.purge a.base (s.met f).rank).entries.length ≤ (s.met f).txq.entries.length :=
    List.length_filter_le _ _
  have hasked := Txq.request_length ((s.met f).txq.purge a.base (s.met f).rank) .announce
  rw [← htxq] at hasked
  have hboard : ((s.met f).catchUpAsked i e a).bsu = (((s.met f).caughtUp i e a).boardRewind a.base).bsu := by
    simp [State.catchUpAsked]
  have hrec : ∀ j : StationId, ((((s.met f).catchUpAsked i e a).evalAdvance).settleTerms s.dvu).record j =
      ((s.met f).catchUpAsked i e a).record j := fun j => by simp [State.record]
  have hothers : ∀ j : StationId, j ≠ s.self → ((s.met f).catchUpAsked i e a).record j =
      if j = i then ((((s.hear i).record i).caughtUp a.base).joinIfAbsent e).announced a
      else ((s.hear i).record j).caughtUp a.base := fun j hj => by
    rw [State.catchUpAsked_record i e a (by simpa using hj), State.caughtUp_record hi']
    simp [hf]
  refine ⟨_, hexec, ⟨?stc, ?line, fun hlen => ?slots, ?pending⟩, by simpa using hepoch, by simpa using hbase,
    by simpa using hfront, by simpa using hgather, by simpa using hexpired, by simpa using hannounce,
    by simpa using hlimit, by simpa using hgatherTimer, ?settle, fun j => ?holds, ?sender, fun j hj hself hp => ?others,
    fun j hj hself hp => ?absent, fun hview => ?own, fun hb hr => ?covered, fun hn => ?released, ?queue, fun hlen => ?asked,
    ?log⟩
  case stc => simp [← State.catchUp_eq]
  case line => simp [← State.catchUp_eq, State.met_lif, hf]
  case slots =>
    rw [State.settleTerms_qru_room _ (show _ < 12 from ?_)]
    · exact (hrequests.slots (show _ + 2 ≤ 12 by omega)).trans (s.met_qru f)
    · have hgrown := hrequests.queue.length
      rw [State.catchUp_eq] at hgrown
      exact Nat.lt_of_le_of_lt hgrown (show _ + 2 < 12 by omega)
  case pending => simp [← State.catchUp_eq]
  case settle =>
    rw [State.settleTerms_dvu, State.evalAdvance_dvu, hsettle, State.met_profile]
    cases a.front <;> rfl
  case holds =>
    rw [State.settleTerms_dvu, State.evalAdvance_dvu, State.catchUpAsked_holdSet]
    simp
  case sender =>
    rw [hrec, hothers i hi, if_pos rfl, Record.caughtUp_announced]
    cases hp : (s.record i).present with
    | true => simp [State.hear_record_present hp, hp]
    | false => simp [State.hear_record_absent hp, hp]
  case others =>
    rw [hrec, hothers j hself, if_neg hj, State.hear_record_other hj, Record.caughtUp, if_pos hp]
    simp only [← decide_not, not_le]
  case absent =>
    rw [hrec, hothers j hself, if_neg hj, State.hear_record_other hj, Record.caughtUp, if_neg (by simp [hp])]
  case own =>
    have hown := State.catchUpAsked_own hi' (State.met_view hview f) (by simpa using h.member) e a
    have hsame : (s.met f).record s.self = s.record s.self := by
      rw [State.met_record, hf, State.hear_record_other (Ne.symm hi)]
    rw [State.met_self, State.met_rank, hsame] at hown
    rw [hrec, hown]
    simp [State.logPending]
  case covered =>
    have hheld := State.boardRewind_covered (u := (s.met f).caughtUp i e a) (b := a.base)
      (by simpa [State.rank, hstc] using hb) (by simpa [hbsu] using hr)
    have hprofile : ((s.met f).caughtUp i e a).profile = s.profile := by simp [State.profile, hstc]
    rw [State.settleTerms_bsu, State.evalAdvance_bsu, hboard, hheld, State.contain_bsu, hbsu, State.met_bsu, hprofile]
    exact ⟨Bsu.contain_stopped _ _ _, rfl, rfl⟩
  case released =>
    have hleft := State.boardRewind_uncovered (u := (s.met f).caughtUp i e a) (b := a.base)
      (by simpa [State.rank, hstc, hbsu] using hn)
    have hevaluated := ((s.met f).caughtUp i e a).evalRelease_evaluated
    rw [← hleft, hbsu, State.met_bsu] at hevaluated
    exact hevaluated.of_same (by simp [hboard]) (by simp [State.catchUpAsked]) (by simp [State.catchUpAsked])
      (by simp [State.catchUpAsked])
  case queue =>
    have hqueue := queuePurged_of_announce (s := s.met f) (x := (s.met f).catchUpAsked i e a) (.inl rfl)
      hheard.met_inFlight htxq
    exact hheard.queuePurged nofun (hqueue.settle (fun hroom => by omega) s.dvu)
  case asked =>
    have hroom : ((s.met f).catchUpAsked i e a).txq.entries.length < 12 := by omega
    rw [State.evalAdvance_settleTerms hroom]
    refine State.mem_evalAdvance hroom ?_
    rw [htxq]
    exact Txq.request_announce_mem (show _ < 12 by omega)
  case log =>
    rw [State.settleTerms_clg, State.evalAdvance_clg, State.catchUpAsked, State.append_clg]
    simp [State.caughtUp, Dvu.catchUp, Dvu.startGather, Dvu.startSettle]

end Sys2Proof.Machine

/-!
An ANNOUNCE of equal epoch (R14, R15, R98 to R101): the sender's record and hold, and the view check.
-/

namespace Sys2Proof.Machine

variable {s u : State} {i : StationId} {a : AnnounceFields}

/-! ### The view check (R15) -/

theorem viewAgrees_iff (d : Dvu) (a : AnnounceFields) :
    viewAgrees d a = true ↔ d.front = a.front ∧ d.base = a.base ∧ d.gather = a.gather := by
  simp [viewAgrees, and_assoc]

/-- R15: the rewind rank of two fronts that differ. -/
theorem viewRewindRank_of_fronts {d : Dvu} (h : d.front ≠ a.front) :
    ((viewRewindRank d a).val : Int) = min 7 (min (frontValue d.front) (frontValue a.front) + 1) := by
  have hlow : ∀ f : Front, -1 ≤ frontValue f := fun f => by
    cases f with
    | none => decide
    | rank k => exact (show (-1 : Int) ≤ (k.val : Int) by omega)
    | all => decide
  have hd := hlow d.front
  have ha := hlow a.front
  rw [viewRewindRank, if_pos h]
  dsimp only
  split
  · next hlt =>
    simp only
    omega
  · next hge =>
    show (7 : Int) = _
    omega

theorem viewRewindRank_of_bases {d : Dvu} (h : d.front = a.front) : viewRewindRank d a = min d.base a.base :=
  if_neg (not_not.2 h)

/-- R14, R15, R101: the state once the announced fields, the hold and the mark of the view check have been written. -/
def State.checked (u : State) (i : StationId) (a : AnnounceFields) : State :=
  ((u.applyAnnounce i a).reconcile i a.holding).updateRecord i (fun r => { r with disagree := !viewAgrees u.dvu a })

theorem State.announceEqual_agrees (i : StationId) (h : viewAgrees u.dvu a = true) :
    u.announceEqual i a = u.checked i a := by
  have hsame : viewAgrees ((u.applyAnnounce i a).reconcile i a.holding).dvu a = true := by
    simpa [viewAgrees] using h
  rw [State.announceEqual, State.viewCheck, if_pos hsame, State.checked, h]
  rfl

theorem State.announceEqual_differs (i : StationId) (h : viewAgrees u.dvu a = false) :
    u.announceEqual i a = (u.checked i a).raiseView (viewRewindRank u.dvu a) := by
  have hsame : viewAgrees ((u.applyAnnounce i a).reconcile i a.holding).dvu a = false := by
    simpa [viewAgrees] using h
  have hrank : viewRewindRank ((u.applyAnnounce i a).reconcile i a.holding).dvu a = viewRewindRank u.dvu a := by
    simp [viewRewindRank]
  rw [State.announceEqual, State.viewCheck, if_neg (by simp [hsame]), hrank, State.checked, h]
  rfl

theorem State.checked_frame (u : State) (i : StationId) (a : AnnounceFields) :
    (u.checked i a).stc = u.stc ∧ (u.checked i a).bsu = u.bsu ∧ (u.checked i a).clg = u.clg ∧
    (u.checked i a).dvu.epoch = u.dvu.epoch ∧ (u.checked i a).lpt = u.lpt := by
  simp [State.checked]

/-- R8, R14, R15: the records once checked. -/
theorem State.checked_record (u : State) (i : StationId) (a : AnnounceFields) (j : StationId) :
    (u.checked i a).record j = if j = i then
      { (if i = u.self then ((u.record i).joinIfAbsent u.dvu.epoch).ownAnnounced a u.bsu.board
          else ((u.record i).joinIfAbsent u.dvu.epoch).announced a) with disagree := !viewAgrees u.dvu a }
      else u.record j := by
  rw [State.checked, record_updateRecord, State.reconcile_record, State.reconcile_record, State.applyAnnounce,
    record_updateRecord, record_updateRecord]
  by_cases hj : j = i
  · subst hj
    simp
  · simp [hj]

/-- R14: a record to which the fields of another station's ANNOUNCE have been applied. -/
theorem Record.announced_joined (r : Record) (e : Epoch) (a : AnnounceFields) : (r.joinIfAbsent e).announced a =
    { present := true, rank := a.senderRank, board := a.board, ready := a.board == .ready
      late := r.present && r.late && a.board != .ready, silence := if r.present then r.silence else 0
      joined := if r.present then r.joined else e, disagree := r.present && r.disagree
      budget := a.budget, logPending := a.logPending } := by
  cases h : r.present <;> simp [Record.joinIfAbsent, Record.join, Record.announced, h]

theorem State.raiseView_follows (u : State) (b : Rank) : OnlyOwnFollows u (u.raiseView b) :=
  (u.append_follows .view (some (scopeOfRewind b)) (some u.self) (some b) false).then_same (by simp [State.raiseView])
    (by simp [State.raiseView]) (by simp [State.raiseView])

theorem State.announceEqual_others (u : State) (i : StationId) (a : AnnounceFields) {j : StationId} (hj : j ≠ u.self) :
    (u.announceEqual i a).record j = (u.checked i a).record j := by
  obtain ⟨hstc, -⟩ := u.checked_frame i a
  cases h : viewAgrees u.dvu a with
  | true => rw [State.announceEqual_agrees i h]
  | false =>
    rw [State.announceEqual_differs i h]
    exact ((u.checked i a).raiseView_follows _).others j (by simpa [State.self, hstc] using hj)

theorem State.raiseView_clg (u : State) (b : Rank) : (u.raiseView b).clg =
    u.clg.appended (recordOf .view (some (scopeOfRewind b)) (some u.self) u.dvu.epoch (some b) u.stc.uptime false) := by
  rw [State.raiseView, State.request_clg, State.append_clg]

/-- What an ANNOUNCE of equal epoch touches in no case. -/
theorem State.announceEqual_apart (u : State) (i : StationId) (a : AnnounceFields) :
    (u.announceEqual i a).dvu.epoch = u.dvu.epoch ∧ (u.announceEqual i a).dvu.base = u.dvu.base ∧
    (u.announceEqual i a).dvu.front = u.dvu.front ∧ (u.announceEqual i a).dvu.gather = u.dvu.gather ∧
    (u.announceEqual i a).dvu.gatherExpired = u.dvu.gatherExpired ∧ SameTimers u.dvu (u.announceEqual i a).dvu ∧
    (u.announceEqual i a).bsu = u.bsu ∧
    ∀ j : StationId, (u.announceEqual i a).dvu.holdSet[j] = if j = i then a.holding else u.dvu.holdSet[j] := by
  refine ⟨by simp [State.announceEqual], by simp [State.announceEqual], by simp [State.announceEqual],
    by simp [State.announceEqual], by simp [State.announceEqual], ?_, by simp [State.announceEqual], fun j => ?_⟩
  · constructor <;> simp [State.announceEqual]
  · rw [State.announceEqual, State.viewCheck_dvu_holdSet, State.reconcile_holdSet, State.applyAnnounce_dvu_holdSet]

/-! ### The FAULT of a view difference in a queue (R50, R165) -/

/-- R165: a FAULT outlasts a request for an ADVANCE: none of the entries that may be discarded is one. -/
theorem Txq.fault_outlasts_advance {q : Txq} {g : FaultFields} (h : .fault g ∈ q.entries) (o n : Front) :
    .fault g ∈ (q.request (.advance o n)).1.entries := by
  unfold Txq.request
  split
  · split
    · exact h
    · exact List.mem_map.2 ⟨_, h, if_neg nofun⟩
  · unfold Txq.add
    split
    · exact List.mem_append_left _ h
    · split
      · next hurgent =>
        split
        · next d hd =>
          refine List.mem_append_left _ (mem_removeKey.2 ⟨h, fun hk => ?_⟩)
          have hleast := Txq.youngestOf_urgency hd
          cases d with
          | fault _ =>
            rw [← hleast] at hurgent
            exact absurd hurgent (by simp [Entry.urgency])
          | _ => cases hk
        · exact h
      · exact h

theorem State.fault_mem_settleTerms {u : State} {g : FaultFields} (h : .fault g ∈ u.txq.entries) (d : Dvu) :
    .fault g ∈ (u.settleTerms d).txq.entries := by
  rcases u.settleTerms_txq_cases d with hq | ⟨o, n, hq⟩ <;> rw [hq]
  · exact h
  · exact Txq.fault_outlasts_advance h o n

/-- R15, R50: with room and no FAULT held, the FAULT of a view difference is pending. -/
theorem State.viewFault_pending (hlen : u.txq.entries.length < 12) (hnone : u.txq.holds .fault = false) (i : StationId)
    (a : AnnounceFields) (b : Rank) :
    .fault ⟨.view, scopeOfRewind b, u.rank, b⟩ ∈ ((u.checked i a).raiseView b).txq.entries := by
  obtain ⟨hstc, -⟩ := u.checked_frame i a
  have hgrows : u.txq.Grows (u.checked i a).txq [] :=
    ((Requests.reconcile (u.applyAnnounce i a) i a.holding).from_same (by simp) (by simp)).then_same
      (w := u.checked i a) (by simp [State.checked]) (by simp [State.checked]) |>.queue
  have hrank : (u.checked i a).rank = u.rank := by simp [State.rank, hstc]
  rw [State.raiseView, State.request_txq, hrank, State.append_txq]
  refine Txq.mem_request_fresh (Nat.lt_of_le_of_lt hgrows.length hlen) (hgrows.not_mem nofun fun x hx hk => ?_)
  exact (Txq.holds_eq_false_iff _ _).1 hnone (List.mem_map.2 ⟨x, hx, hk⟩)

/-! ### The arrival -/

theorem State.announceRule_equal {e : Epoch} (he : e = u.dvu.epoch) (i : StationId) (a : AnnounceFields) :
    u.announceRule i e a = u.announceEqual i a := by
  rw [State.announceRule, (u.judge_equal_iff i e).2 he]

/-- R9, R10, R14: the own record after the own ANNOUNCE. -/
theorem State.announceEqual_own (h : ViewSound u) (hm : u.stc.station = .member) (a : AnnounceFields) :
    (u.announceEqual u.self a).record u.self = { u.record u.self with
      ready := (u.record u.self).ready || (a.board == .ready && u.bsu.board == .ready)
      disagree := !viewAgrees u.dvu a, logPending := (u.announceEqual u.self a).logPending } := by
  obtain ⟨hpresent, hrank, hboard, hbudget, hlog, hsilence⟩ := h.own hm
  obtain ⟨hstc, hbsu, hclg, -⟩ := u.checked_frame u.self a
  have hready : (u.record u.self).ready = true → u.bsu.board = .ready := fun hr => hboard ▸ (h.records u.self).ready hr
  have hrec : (u.checked u.self a).record u.self = { u.record u.self with
      ready := (u.record u.self).ready || (a.board == .ready && u.bsu.board == .ready)
      disagree := !viewAgrees u.dvu a } := by
    rw [State.checked_record, if_pos rfl, if_pos rfl, Record.joinIfAbsent_of_present hpresent]
    rfl
  cases hagrees : viewAgrees u.dvu a with
  | true =>
    have hpending : (u.checked u.self a).logPending = (u.record u.self).logPending := by
      rw [hlog, State.logPending, hclg, State.logPending]
    rw [State.announceEqual_agrees _ hagrees, hrec, hpending, hagrees]
  | false =>
    have hfollows := ((u.checked u.self a).raiseView_follows (viewRewindRank u.dvu a)).own
    have hself : (u.checked u.self a).self = u.self := congrArg (fun c : Stc => c.straps.id) hstc
    have hxrank : (u.checked u.self a).rank = u.rank := congrArg (fun c : Stc => c.straps.rank) hstc
    have hkept : (((u.record u.self).ready || (a.board == .ready && u.bsu.board == .ready)) &&
        (u.bsu.board == .ready)) = ((u.record u.self).ready || (a.board == .ready && u.bsu.board == .ready)) := by
      cases hr : (u.record u.self).ready with
      | true => simp [hready hr]
      | false => cases a.board == .ready <;> simp
    rw [hstc, if_pos hm, hself, hrec, hagrees, State.raiseView_bsu, hbsu, hxrank] at hfollows
    rw [State.announceEqual_differs _ hagrees, hfollows]
    simp only [hkept, hrank, hboard, hbudget]

/-- Settles O30: the fields applied and checked, at the state that has been heard; for the own ANNOUNCE only the own ready
flag and the view check. -/
theorem equalAnnounceIsAppliedAndChecked : Obligations.EqualAnnounceIsAppliedAndChecked := by
  have hequal : ∀ (s : State) (i : StationId) (a : AnnounceFields), s.Hears ⟨i, s.dvu.epoch, .announce a⟩ →
      exec (.announceArrival i s.dvu.epoch a) s = .next (s.concluded ⟨i, s.dvu.epoch, .announce a⟩
        ((s.met ⟨i, s.dvu.epoch, .announce a⟩).announceEqual i a)) := fun s i a h => by
    rw [← State.announceRule_equal (e := s.dvu.epoch) (by simp)]
    exact exec_of_heard rfl h
  refine ⟨fun s i a h => ?other, fun s i a h hview => ?own⟩
  case other =>
    set f : Frame := ⟨i, s.dvu.epoch, .announce a⟩ with hf
    have hheard : s.Hears f := .inl h
    have hexec : exec (.announceArrival i s.dvu.epoch a) s = .next (s.concluded f ((s.met f).announceEqual i a)) :=
      hequal s i a hheard
    have hi : i ≠ s.self := h.other
    obtain ⟨hepoch, hbase, hfront, hgather, hexpired, htimers, hbsu, hholds⟩ := (s.met f).announceEqual_apart i a
    obtain ⟨hstc, -, hclg, hcheckedEpoch, hlpt⟩ := (s.met f).checked_frame i a
    have hview : viewAgrees (s.met f).dvu a = viewAgrees s.dvu a := by simp [viewAgrees]
    have hrank : viewRewindRank (s.met f).dvu a = viewRewindRank s.dvu a := by simp [viewRewindRank]
    have hmet := hheard.met_length
    refine ⟨_, hexec, hheard.heardFrame (Requests.announceEqual _ _ _) le_rfl (by simp [State.announceEqual])
      (by simp [State.announceEqual]) (by simp [State.announceEqual]), by simp [hepoch], by simp [hbase], by simp [hfront],
      by simp [hgather], by simp [hexpired], State.concluded_sameTimers htimers, by simp [hbsu], fun j => ?holds, ?sender,
      fun j hj hself => ?others, fun h1 h2 h3 => ?agrees, fun hn => ?differs⟩
    case holds =>
      rw [State.concluded_dvu, hholds]
      simp
    case sender =>
      rw [State.concluded_record, State.announceEqual_others _ _ _ (by simpa using hi), State.checked_record, if_pos rfl,
        if_neg (by simpa using hi), Record.announced_joined, hview]
      cases hp : (s.record i).present with
      | true => simp [hf, State.hear_record_present hp, hp, viewAgrees]
      | false => simp [hf, State.hear_record_absent hp, hp, viewAgrees]
    case others =>
      rw [State.concluded_record, State.announceEqual_others _ _ _ (by simpa using hself), State.checked_record, if_neg hj,
        State.met_record, hf, State.hear_record_other hj]
    case agrees =>
      rw [State.announceEqual_agrees i (hview.trans ((viewAgrees_iff _ _).2 ⟨h1, h2, h3⟩))]
      refine ⟨by simp [hclg], by simp [hlpt], ?_⟩
      rw [State.concluded_record, State.checked_record, if_neg (Ne.symm hi), State.met_record, hf,
        State.hear_record_other (Ne.symm hi)]
    case differs =>
      have hdiffers : viewAgrees (s.met f).dvu a = false := by
        rw [hview]
        exact Bool.eq_false_iff.2 fun hc => hn ((viewAgrees_iff _ _).1 hc)
      rw [State.announceEqual_differs i hdiffers, hrank]
      refine ⟨viewRewindRank s.dvu a, viewRewindRank_of_fronts, viewRewindRank_of_bases, ?_, fun hlen hnone => ?_⟩
      · rw [State.concluded_clg, State.raiseView_clg]
        simp [hclg, hcheckedEpoch, hstc, State.self, scopeOfRewind]
      · have hfresh : (s.met f).txq.holds .fault = false := by
          rw [Txq.holds_eq_false_iff] at hnone ⊢
          intro hm
          obtain ⟨x, hx, hk⟩ := List.mem_map.1 hm
          exact hnone (List.mem_map.2 ⟨x, hheard.mem_of_mem_met hx, hk⟩)
        have hpending := State.viewFault_pending (u := s.met f) (Nat.lt_of_le_of_lt hmet hlen) hfresh i a
          (viewRewindRank s.dvu a)
        rw [State.concluded_other h.other]
        rw [State.met_rank] at hpending
        exact State.fault_mem_settleTerms hpending s.dvu
  case own =>
    set f : Frame := ⟨i, s.dvu.epoch, .announce a⟩ with hf
    have hheard : s.Hears f := .inr h
    have hexec : exec (.announceArrival i s.dvu.epoch a) s = .next (s.concluded f ((s.met f).announceEqual i a)) :=
      hequal s i a hheard
    have hi : i = s.self := h.own
    have hm : s.stc.station = .member := h.member
    obtain ⟨hepoch, hbase, hfront, hgather, hexpired, htimers, hbsu, hholds⟩ := (s.met f).announceEqual_apart i a
    obtain ⟨hstc, -, hclg, -, hlpt⟩ := (s.met f).checked_frame i a
    have hagrees : viewAgrees (s.met f).dvu a = viewAgrees s.dvu a := by simp [viewAgrees]
    refine ⟨_, hexec, hheard.heardFrame (Requests.announceEqual _ _ _) le_rfl (by simp [State.announceEqual])
      (by simp [State.announceEqual]) (by simp [State.announceEqual]), by simp [hepoch], by simp [hbase], by simp [hfront],
      by simp [hgather], by simp [hexpired], State.concluded_sameTimers htimers, by simp [hbsu], fun j => ?holds,
      fun j hj => ?others, ?record, fun h1 h2 h3 => ?agrees⟩
    case holds =>
      rw [State.concluded_dvu, hholds]
      simp
    case others =>
      rw [State.concluded_record, State.announceEqual_others _ _ _ (by simpa [← hi] using hj), State.checked_record,
        if_neg hj, State.met_record, hf, State.hear_record_other hj]
    case record =>
      have hown := State.announceEqual_own (State.met_view hview f) (by simpa using hm) a
      have hsame : (s.met f).record s.self = s.record s.self := by
        rw [State.met_record, hf, State.hear_own hview hm]
      rw [State.met_self, hsame, State.met_bsu, hagrees, ← hi] at hown
      rw [State.concluded_record, State.concluded_logPending, hown]
      rfl
    case agrees =>
      rw [State.announceEqual_agrees i (hagrees.trans ((viewAgrees_iff _ _).2 ⟨h1, h2, h3⟩))]
      exact ⟨by simp [hclg], by simp [hlpt]⟩

end Sys2Proof.Machine

/-!
QUERY, REPLY and the query timers (R169, R172 to R175): answers with the data of the moment, and the slots completed.
-/

namespace Sys2Proof.Machine

variable {s u : State} {f : Frame}

/-! ### Rules that leave the view as it was heard -/

theorem terms_eq_of_records {d e : Dvu} (h : ∀ j : StationId, (d.records[j]).terms = (e.records[j]).terms) :
    d.records.toArray.toList.map Record.terms = e.records.toArray.toList.map Record.terms :=
  List.ext_getElem (by simp) fun n hn _ => by
    have hlt : n < 32 := by simpa using hn
    simpa using h ⟨n, hlt⟩

/-- R13, R31: hearing a sender changes no term of the advance condition. -/
theorem State.hear_termsChanged (s : State) (i : StationId) : termsChanged s.dvu (s.hear i).dvu = false := by
  have hrecords := terms_eq_of_records (d := s.dvu) (e := (s.hear i).dvu) fun j => (s.hear_fields i j).symm
  unfold termsChanged
  rw [hrecords]
  simp

/-- R31: where the rule has left the view alone and nothing is remembered, nothing follows it. -/
theorem State.concluded_unchanged (hd : u.dvu = (s.met f).dvu) (h : f.sender ≠ s.self ∨ s.txq.remembered = none) :
    s.concluded f u = u := by
  have hsettled : u.settleTerms s.dvu = u := by
    rw [State.settleTerms, hd, State.met_dvu, State.hear_termsChanged, if_neg Bool.false_ne_true]
  rcases h with h | h
  · rw [State.concluded_other h, hsettled]
  · rw [State.concluded_unremembered h, hsettled]

theorem State.met_sameDomain (s : State) (f : Frame) (hd : u.dvu = (s.met f).dvu) :
    SameDomain s.dvu u.dvu ∧ SameTimers s.dvu u.dvu ∧ ∀ j : StationId, u.record j = (s.hear f.sender).record j := by
  refine ⟨?_, ?_, fun j => ?_⟩
  · constructor <;> simp [hd]
  · constructor <;> simp [hd]
  · rw [State.record, hd, State.met_dvu]
    rfl

theorem HearsOther.met_txq (h : HearsOther s f) (hc : cancelledKey f.body = none) :
    (s.met f).txq = s.txq.cancel (.memberSilent f.sender) := by
  rw [State.Hears.met_txq (.inl h), h.shed, Txq.cancel_of_none h.quiet.2, keptEntries, hc]
  rfl

/-- The receiver outside any frame, at a station that has heard another. -/
theorem HearsOther.met_lif (h : HearsOther s f) :
    (s.met f).lif = { s.lif with receive := .outside, idle := 0, gapTaken := false } := by
  rw [State.met_lif]
  simp only [if_neg h.other]

/-! ### QUERY (R169, R172, R173) -/

variable {i k : StationId} {item : Item} {tag : Tag}

theorem State.queryRule_answered (hi : i ≠ u.self) (hk : k = u.self) :
    u.queryRule i k item tag = u.request (u.replyTo i item tag) := by
  rw [State.queryRule, if_neg hi]
  exact if_pos hk

theorem State.queryRule_passed (hi : i ≠ u.self) (hk : k ≠ u.self) : u.queryRule i k item tag = u := by
  rw [State.queryRule, if_neg hi]
  exact if_neg hk

theorem State.queryRule_own (hi : i = u.self) (hk : k ≠ u.self) :
    u.queryRule i k item tag = u.updateSlot tag.slot (fun sl => sl.startTimer tag.gen u.profile) := by
  rw [State.queryRule, if_pos hi]
  exact if_neg hk

theorem State.queryRule_requests (hi : i ≠ u.self) (k : StationId) (item : Item) (tag : Tag) :
    ∃ l : List Key, Requests u (u.queryRule i k item tag) l ∧ l.length ≤ 1 := by
  by_cases hk : k = u.self
  · rw [State.queryRule_answered hi hk]
    exact ⟨_, Requests.request u _, le_rfl⟩
  · rw [State.queryRule_passed hi hk]
    exact ⟨_, Requests.refl u, Nat.zero_le _⟩

/-- R158, R172: with room and nothing in flight, the newest reply asked for is pending. -/
theorem Txq.reply_mem_request {q : Txq} (hl : q.entries.length < Config.queueCapacity) (hf : q.inFlight = none)
    (r : ReplyFields) : .reply r ∈ (q.request (.reply r)).1.entries := by
  cases hh : q.holds (Entry.reply r).key with
  | false =>
    rw [Txq.request_fresh (.reply r) hl hh]
    exact List.mem_append_right _ (List.mem_singleton_self _)
  | true =>
    obtain ⟨x, hx, hk⟩ := List.mem_map.1 ((q.holds_iff _).1 hh)
    rw [Txq.request, if_pos hh, if_neg (by simp [hf])]
    refine List.mem_map.2 ⟨x, hx, ?_⟩
    rw [if_pos hk]
    cases x with
    | reply _ => rfl
    | _ => cases hk

/-- R169: what the answer to a QUERY holds, item by item. -/
theorem State.answer_status (u : State) : u.answer .status =
    (.ok, boardCode u.bsu.board ++ budgetCode u.bsu.budget ++ stationCode u.stc.station,
      u.lif.rxErrors.extractLsb' 0 8) := rfl

theorem State.answer_logSummary (u : State) : (u.answer .logSummary).1 = .ok ∧
    (u.answer .logSummary).2.1 = BitVec.ofNat 8 u.clg.records.length ∧
    (u.clg.records = [] → (u.answer .logSummary).2.2 = 0) ∧
    ∀ x l, u.clg.records = x :: l → (u.answer .logSummary).2.2.toNat = (causeCode x.cause).toNat := by
  refine ⟨rfl, rfl, fun h => ?_, fun x l h => ?_⟩
  · simp only [State.answer, h]
    rfl
  · have hlt := (causeCode x.cause).isLt
    simp only [State.answer, h, BitVec.toNat_append]
    simp

theorem State.answer_lastFault (u : State) :
    (u.qru.lastFault = none → u.answer .lastFault = (.noData, 0, 0)) ∧
    ∀ l, u.qru.lastFault = some l →
      u.answer .lastFault = (.ok, causeCode l.cause ++ scopeCode l.scope ++ 0#2, l.epoch) := by
  refine ⟨fun h => ?_, fun l h => ?_⟩
  · simp only [State.answer, h]
    rfl
  · simp only [State.answer, h]

/-- Settles O40: the reply that joins the queue of the state that has been heard, and the timer of the own QUERY's slot. -/
theorem queriesAreAnsweredAndTimed : Obligations.QueriesAreAnsweredAndTimed := by
  refine ⟨fun s i e k item tag h => ?other, fun s i e k item tag h hk hr => ?own⟩
  case other =>
    set f : Frame := ⟨i, e, .query k item tag⟩ with hf
    have hheard : s.Hears f := .inl h
    have hi : i ≠ s.self := h.other
    have hi' : i ≠ (s.met f).self := by simpa using hi
    have hdvu : ((s.met f).queryRule i k item tag).dvu = (s.met f).dvu := by
      by_cases hk : k = (s.met f).self
      · rw [State.queryRule_answered hi' hk, State.request_dvu]
      · rw [State.queryRule_passed hi' hk]
    have hsame := State.concluded_unchanged hdvu (.inl h.other)
    have hexec : exec (.queryArrival i e k item tag) s = .next ((s.met f).queryRule i k item tag) := by
      rw [← hsame]
      exact exec_of_heard rfl hheard
    obtain ⟨l, hrequests, hl⟩ := State.queryRule_requests hi' k item tag
    obtain ⟨hdomain, htimers, hrecords⟩ := State.met_sameDomain s f hdvu
    have hframe := hheard.heardFrame hrequests hl
    rw [hsame] at hframe
    refine ⟨_, hexec, hframe, fun hk hlen => ?answered, fun hk => ?passed, hrecords, hdomain, htimers, by simp, by simp,
      by simp⟩
    case answered =>
      rw [State.queryRule_answered hi' (by simpa using hk), State.request_txq]
      have hlif := h.met_lif
      obtain ⟨hstatus, hlength, hempty, hcause⟩ := (s.met f).answer_logSummary
      obtain ⟨hnoData, hdata⟩ := (s.met f).answer_lastFault
      rw [State.met_clg] at hlength hempty hcause
      rw [State.met_qru] at hnoData hdata
      refine ⟨_, Txq.reply_mem_request (Nat.lt_of_le_of_lt hheard.met_length hlen) hheard.met_inFlight _, rfl, rfl, rfl,
        fun hitem => ?_, fun hitem => ?_, fun hitem => ?_⟩
      · subst hitem
        rw [State.answer_status]
        simp [hlif, h.member]
      · subst hitem
        exact ⟨hstatus, hlength, hempty, hcause⟩
      · subst hitem
        refine ⟨fun hnone => ?_, fun l hsome => ?_⟩
        · rw [hnoData hnone]
          exact ⟨rfl, rfl, rfl⟩
        · rw [hdata l hsome]
          exact ⟨rfl, rfl, rfl⟩
    case passed =>
      rw [State.queryRule_passed hi' (by simpa using hk)]
      exact ⟨by simp, h.met_txq rfl⟩
  case own =>
    set f : Frame := ⟨i, e, .query k item tag⟩ with hf
    have hheard : s.Hears f := .inr h
    have hi : i = s.self := h.own
    have hrule := State.queryRule_own (u := s.met f) (item := item) (tag := tag) (show i = _ by simpa using hi)
      (show k ≠ _ by simpa using hk)
    have hdvu : ((s.met f).queryRule i k item tag).dvu = (s.met f).dvu := by rw [hrule, State.updateSlot_dvu]
    have hexec : exec (.queryArrival i e k item tag) s = .next ((s.met f).queryRule i k item tag) := by
      rw [← State.concluded_unchanged hdvu (.inr hr)]
      exact exec_of_heard rfl hheard
    obtain ⟨hdomain, htimers, hrecords⟩ := State.met_sameDomain s f hdvu
    have hslots : ∀ j : SlotIx, ((s.met f).queryRule i k item tag).qru.slots[j] =
        if j = tag.slot then (s.qru.slots[tag.slot]).startTimer tag.gen s.profile else s.qru.slots[j] := fun j => by
      rw [hrule, slots_updateSlot, State.met_qru, State.met_profile]
    refine ⟨_, hexec, fun hw hg => ?_, fun hn => ?_, fun j hj => ?_, by simp [hrule], hrecords, hdomain, htimers,
      by simp, by simp, by simp, by simp⟩
    · rw [hslots, if_pos rfl]
      exact if_pos ⟨hw, hg⟩
    · rw [hslots, if_pos rfl]
      exact if_neg hn
    · rw [hslots, if_neg hj]

/-! ### REPLY and the query timers (R174, R175) -/

variable {r : ReplyFields}

theorem State.replyMatches_iff (u : State) (i : StationId) (r : ReplyFields) : u.replyMatches i r = true ↔
    r.requester = u.self ∧ (u.qru.slots[r.tag.slot]).state = .waiting ∧
      (u.qru.slots[r.tag.slot]).gen = r.tag.gen ∧ (u.qru.slots[r.tag.slot]).target = i := by
  simp only [State.replyMatches, Bool.and_eq_true, beq_iff_eq, and_assoc, eq_comm (a := i)]

theorem State.replyRule_matched (h : u.replyMatches i r = true) : u.replyRule i r =
    (u.updateSlot r.tag.slot (fun sl => sl.finish r)).cancel (.query r.tag.slot) := if_pos h

theorem State.replyRule_unmatched (h : ¬u.replyMatches i r = true) : u.replyRule i r = u := if_neg h

theorem exec_queryTimerExpiry {j : SlotIx} (hw : (s.qru.slots[j]).state = .waiting)
    (hr : (s.qru.slots[j]).timer.isRunning = true) :
    exec (.queryTimerExpiry j) s = .next (s.updateSlot j Slot.expire) := if_pos ⟨hw, hr⟩

/-- Settles O41: by `State.replyMatches_iff`, at the state that has been heard; the expiry of a query timer by itself. -/
theorem repliesAndExpiriesCompleteSlots : Obligations.RepliesAndExpiriesCompleteSlots := by
  refine ⟨fun s i e r h => ?other, fun s i e r h hrequester hr => ?own, fun s j hw hr => ?expiry⟩
  case other =>
    set f : Frame := ⟨i, e, .reply r⟩ with hf
    have hdvu := (s.met f).replyRule_dvu i r
    have hexec : exec (.replyArrival i e r) s = .next ((s.met f).replyRule i r) := by
      rw [← State.concluded_unchanged hdvu (.inl h.other)]
      exact exec_of_heard rfl (.inl h)
    obtain ⟨hdomain, htimers, hrecords⟩ := State.met_sameDomain s f hdvu
    have hmatches : (s.met f).replyMatches i r = true ↔ r.requester = s.self ∧
        (s.qru.slots[r.tag.slot]).state = .waiting ∧ (s.qru.slots[r.tag.slot]).gen = r.tag.gen ∧
        (s.qru.slots[r.tag.slot]).target = i := by
      rw [State.replyMatches_iff, State.met_self, State.met_qru]
    refine ⟨_, hexec, fun hrequester hw hg ht => ?matched, fun hn => ?unmatched, hrecords, hdomain, htimers, by simp, ?line,
      by simp, by simp, by simp, by simp⟩
    case matched =>
      have hrule := State.replyRule_matched (hmatches.2 ⟨hrequester, hw, hg, ht⟩)
      have hslots : ∀ j : SlotIx, ((s.met f).replyRule i r).qru.slots[j] =
          if j = r.tag.slot then (s.qru.slots[r.tag.slot]).finish r else s.qru.slots[j] := fun j => by
        rw [hrule, State.cancel_qru, slots_updateSlot, State.met_qru]
      refine ⟨?_, fun j hj => ?_, by simp [hrule], fun k item g hm => ?_⟩
      · rw [hslots, if_pos rfl]
        rfl
      · rw [hslots, if_neg hj]
      · have hq : ((s.met f).replyRule i r).txq = (s.met f).txq.cancel (.query r.tag.slot) := by rw [hrule]; rfl
        rw [hq, Txq.cancel_of_none (State.Hears.met_inFlight (.inl h))] at hm
        exact (mem_removeKey.1 hm).2 rfl
    case unmatched =>
      rw [State.replyRule_unmatched fun hc => hn (hmatches.1 hc)]
      exact ⟨by simp, h.met_txq rfl⟩
    case line =>
      have hlif : ((s.met f).replyRule i r).lif = (s.met f).lif := by simp
      rw [hlif, h.met_lif]
  case own =>
    set f : Frame := ⟨i, e, .reply r⟩ with hf
    have hheard : s.Hears f := .inr h
    have hrule : (s.met f).replyRule i r = s.met f := State.replyRule_unmatched fun hc =>
      hrequester (by simpa using ((State.replyMatches_iff _ _ _).1 hc).1)
    have hsame : s.concluded f (s.met f) = s.met f := State.concluded_unchanged rfl (.inr hr)
    have hexec : exec (.replyArrival i e r) s = .next (s.met f) := by
      rw [← hsame, ← hrule]
      exact exec_of_heard rfl hheard
    have hframe := hheard.heardFrame (Requests.refl (s.met f)) (Nat.zero_le _)
    rw [hsame] at hframe
    obtain ⟨hdomain, htimers, hrecords⟩ := State.met_sameDomain s f rfl
    refine ⟨_, hexec, hframe, by simp, hheard.met_inFlight, h.met_remembered, ?_, hrecords, hdomain, htimers, by simp,
      by simp, by simp⟩
    rw [hheard.met_txq, h.shed]
    show removeKey (removeKey s.txq.entries (.reply r.requester r.tag)) (.memberSilent i) = _
    rw [removeKey, removeKey, List.filter_filter]
    exact List.filter_congr fun x _ => by simp [and_comm]
  case expiry =>
    have hslots : ∀ m : SlotIx, (s.updateSlot j Slot.expire).qru.slots[m] =
        if m = j then (s.qru.slots[j]).expire else s.qru.slots[m] := fun m => slots_updateSlot s j m Slot.expire
    refine ⟨_, exec_queryTimerExpiry hw hr, rfl, rfl, fun m hm => ?_, ?_⟩
    · rw [hslots, if_neg hm]
    · rw [hslots, if_pos rfl]
      rfl

end Sys2Proof.Machine
